-- ==== Sys2Proof/Word.lean ====
section
/-! DEFINITION. The words, registers' widths and closed enumerations of the CAN dashboard messaging core. -/

namespace Sys2Proof

/-- A payload byte (R12: a byte is 8 bits). -/
abbrev Byte := BitVec 8

/-- The width of a payload length field, `len[3:0]` (R21, R91). -/
abbrev Len := BitVec 4

/-- The sampled numeric value, `n.NUM[16:0]` and `n.val_in[16:0]` (R24, R40). -/
abbrev NumValue := BitVec 17

/-- The gear latch, `P1.gear[3:0]` (R26). -/
abbrev Gear := BitVec 4

/-- A sequencer's phase register, 3 bits (R29). -/
abbrev Phase := BitVec 3

/-- The three node roles (R3, R15). -/
inductive Role where
  | p1 | p2 | c
deriving DecidableEq, Repr, Inhabited

/-- The two producer nodes, which hold a KeyEdgeDetector (R3, R20). -/
inductive Producer where
  | p1 | p2
deriving DecidableEq, Repr, Inhabited

/-- The logical type of a message, with `UNKNOWN` for an identifier that maps to no kind (R15). -/
inductive Kind where
  | gear | speed | rpm | indicator | unknown
deriving DecidableEq, Repr, Inhabited

/-- IndicatorState: OFF, LEFT, RIGHT, HAZARD (R15, R27). -/
inductive Ind where
  | off | left | right | hazard
deriving DecidableEq, Repr, Inhabited

/-- The CollisionStateMachine's state (R31). -/
inductive Mode where
  | normal | collision
deriving DecidableEq, Repr, Inhabited

/-- Whether a repeated sentinel frame in COLLISION draws the alarm again (R10, R225). -/
inductive AlarmRerender where
  | entryOnly | everySentinel
deriving DecidableEq, Repr, Inhabited

/-- An external display address: opaque to the core, which compares no two and computes none (R63). -/
structure DispAddr where
  code : Nat
deriving DecidableEq, Repr, Inhabited

/-- The output events, the three calls of the character display (R14, R44, R298). -/
inductive DispEvent where
  | clear
  | printAt (addr : DispAddr) (bytes : List Byte)
  | writeAt (addr : DispAddr) (byte : Byte)
deriving DecidableEq, Repr

end Sys2Proof
end

