-- ==== Sys2Proof/Config.lean ====
section
/-! DEFINITION. The parameters of R10. A value that the table of R10 gives is a definition with that value, a value
that it gives as a formula over others is that formula, and nothing else in the model repeats either as a numeral (R10,
U7: a corrected value changes one place); Sys2Proof/Laws/Config.lean proves the table's constraints. An OPEN
parameter is a constant without a body, so that a claim holds for every value that meets the constraint; the
constraints are built into how the constant is formed. The environment's choices and the free values stand here too. -/

namespace Sys2Proof.Config

/-- `N_NODES`: the nodes on the bus (R10); `Role` names them. -/
def nNodes : Nat := 3

/-- `ID_W`: the identifier width in bits (R10). -/
abbrev idW : Nat := 11

/-- `LEN_MAX`: the largest payload length (R10). -/
def lenMax : Nat := 8

/-- `GEAR_TOP`: the highest ordinary gear (R10). -/
def gearTop : Nat := 7

/-- `SENTINEL`: the gear value that means a collision event (R10). -/
def sentinel : Nat := 8

/-- `SPEED_DIGITS`: the most digits in a SPEED payload (R10). -/
def speedDigits : Nat := 3

/-- `RPM_DIGITS`: the most digits in an RPM payload (R10). -/
def rpmDigits : Nat := 5

/-- `SPEED_MAX = 10^SPEED_DIGITS - 1` (R10). -/
def speedMax : Nat := 10 ^ speedDigits - 1

/-- `RPM_MAX = 10^RPM_DIGITS - 1` (R10). -/
def rpmMax : Nat := 10 ^ rpmDigits - 1

/-- `TICK_MOD`: the wrap modulus of the TickCounter (R10). -/
def tickMod : Nat := 20000

/-- `TICK_W`: the width of the TickCounter register (R10). -/
abbrev tickW : Nat := 16

/-- `HALF_PERIOD = floor(TICK_MOD / 2)`: the blink threshold (R10). -/
def halfPeriod : Nat := tickMod / 2

/-- `TICK_PERIOD`: the time between timer fires, OPEN; no rule depends on it (R10, R330). -/
opaque tickPeriod : Nat

/-- What a value of zero is sent as, `"00"` (U7, R164, R166). -/
def zeroDigits : List Byte := [0x30, 0x30]

/-- `ALARM_RERENDER`, with the value the table of R10 gives this hardware (log 8). The handler of R225 takes the
setting as an argument, so that both settings are modelled. -/
def alarmRerender : AlarmRerender := .entryOnly

end Sys2Proof.Config

namespace Sys2Proof

/-- A bus identifier (R91). -/
abbrev Ident := BitVec Config.idW

/-- The TickCounter, `C.tick[15:0]` (R33). -/
abbrev Tick := BitVec Config.tickW

namespace Config

/-- The OPEN identifiers (R10, R94): any permutation of the identifier space. The four identifiers are its values at
the four kind codes, which are pairwise distinct because it is a permutation, and every pairwise distinct quadruple
is the value of some permutation at 0 to 3 (log 5). -/
opaque idPerm : Equiv.Perm Ident

/-- `ID_GEAR` (R10). -/
def idGear : Ident := idPerm 0

/-- `ID_SPEED` (R10). -/
def idSpeed : Ident := idPerm 1

/-- `ID_RPM` (R10). -/
def idRpm : Ident := idPerm 2

/-- `ID_INDICATOR` (R10). -/
def idIndicator : Ident := idPerm 3

/-- How far `KEY_W` lies above 3 (R10, log 6). -/
opaque keyWAbove : Nat

/-- `KEY_W`: the width of a key mask. OPEN; four masks of `P2` that are pairwise distinct and not 0 need at least
three bits (DEDUCED from R10 and R105, log 6). -/
def keyW : Nat := keyWAbove + 3

end Config

/-- A key mask, `KEY_W` bits (R103). -/
abbrev KeyMask := BitVec Config.keyW

namespace Config

/-- `ALL_RELEASED`: no key pressed (R10, R103). -/
def allReleased : KeyMask := 0

/-- The OPEN key masks of `P1` (R10, R104, log 6): any permutation of the masks. -/
opaque keyPermP1 : Equiv.Perm KeyMask

/-- The OPEN key masks of `P2` (R10, R105, log 6): any permutation of the masks. -/
opaque keyPermP2 : Equiv.Perm KeyMask

/-- The `k`-th key mask of a node: the permutation after exchanging its value at 0 with 0, so that `ALL_RELEASED`
stays the value at 0 and the masks at 1, 2, 3, 4 are pairwise distinct and not `ALL_RELEASED` (R10). -/
def keyAt (p : Equiv.Perm KeyMask) (k : Nat) : KeyMask :=
  Equiv.swap (p 0) 0 (p (BitVec.ofNat keyW k))

/-- `K_INC`, the INCREMENT key of `P1` (R104). -/
def kInc : KeyMask := keyAt keyPermP1 1

/-- `K_DEC`, the DECREMENT key of `P1` (R104). -/
def kDec : KeyMask := keyAt keyPermP1 2

/-- `K_COL`, the COLLISION key of `P1` (R104). -/
def kCol : KeyMask := keyAt keyPermP1 3

/-- `K_OFF`, the OFF key of `P2` (R105). -/
def kOff : KeyMask := keyAt keyPermP2 1

/-- `K_LEFT`, the LEFT key of `P2` (R105). -/
def kLeft : KeyMask := keyAt keyPermP2 2

/-- `K_RIGHT`, the RIGHT key of `P2` (R105). -/
def kRight : KeyMask := keyAt keyPermP2 3

/-- `K_HAZ`, the HAZARD key of `P2` (R105). -/
def kHaz : KeyMask := keyAt keyPermP2 4

/-- `ADDR_SPEED` (R10), OPEN. -/
opaque addrSpeed : DispAddr

/-- `ADDR_GEAR` (R10), OPEN. -/
opaque addrGear : DispAddr

/-- `ADDR_RPM` (R10), OPEN. -/
opaque addrRpm : DispAddr

/-- `ADDR_ALARM` (R10), OPEN. -/
opaque addrAlarm : DispAddr

/-- `ADDR_MARK_L` (R10), OPEN. -/
opaque addrMarkL : DispAddr

/-- `ADDR_MARK_R` (R10), OPEN. -/
opaque addrMarkR : DispAddr

/-- `ALARM_TEXT` (R10), OPEN. -/
opaque alarmText : List Byte

/-- `LABELS`: the static label layout (R10), OPEN. -/
opaque labels : List (DispAddr × List Byte)

/-- `GEAR_TEXT[0..7]` (R10), OPEN. -/
opaque gearText : Fin (gearTop + 1) → List Byte

/-- `MARK_L` (R10), OPEN. -/
opaque markL : Byte

/-- `MARK_R` (R10), OPEN. -/
opaque markR : Byte

/-- `BLANK` (R10), OPEN. -/
opaque blank : Byte

/-- The environment's choice, at each turn, among the agents that are enabled (R81, log 3). -/
opaque schedule : Nat → Nat

/-- The environment's draw of `n.key_in` at each turn (R80, log 4). -/
opaque keyIn : Nat → KeyMask

/-- The environment's draw of `n.val_in` at each turn, before the contract of R40 bounds it (R80, log 4). -/
opaque valIn : Nat → NumValue

/-- A free value: what `KEV.mask` holds after an operation that leaves it without a value (R23, log 12). -/
opaque freeMask : Nat → KeyMask

/-- A free value: what `MSG.kind` holds after an operation that leaves it without a value (R25, R142, log 12). -/
opaque freeKind : Nat → Kind

end Config
end Sys2Proof
end

