-- ==== Sys2Proof/Syntax.lean ====
section
/-! DEFINITION. The operations: one constructor for each row of spec/opcode_table.json, and the step word that names
one step of one agent. -/

namespace Sys2Proof

/-- One constructor for each row of spec/opcode_table.json. Operands are what a trace line of R130 gives with the
mnemonic: the node that steps where several may, the values on the input ports, the argument of the primitive; a row
of a decode table that stands for several values carries the value. -/
inductive Instr where
  /-- `(reserved)`, tag 0x0 (R112). -/
  | reserved
  /-- `KEY.LEVEL`, tag 0x1 (R181): the node and the draw of `key_in`. -/
  | keyLevel (n : Producer) (m : KeyMask)
  /-- `KEY.EDGE`, tag 0x2 (R182): the node and the draw of `key_in`. -/
  | keyEdge (n : Producer) (m : KeyMask)
  /-- `SAMPLE`, tag 0x3 (R191): the node and the draw of `val_in`. -/
  | sample (n : Producer) (v : NumValue)
  /-- `GEAR.STEP`, tag 0x4 (R192). -/
  | gearStep
  /-- `IND.STEP`, tag 0x5 (R195). -/
  | indStep
  /-- `TX.GEAR`, tag 0x6 (R197). -/
  | txGear
  /-- `TX.SPEED`, tag 0x7 (R198). -/
  | txSpeed
  /-- `TX.RPM`, tag 0x8 (R199). -/
  | txRpm
  /-- `TX.IND`, tag 0x9 (R200). -/
  | txInd
  /-- `CAN.RX`, tag 0xA (R142). -/
  | canRx
  /-- `DISPATCH`, tag 0xB (R221). -/
  | dispatch
  /-- `BUS.DELIVER`, tag 0xC (R143): the sender. -/
  | busDeliver (src : Role)
  /-- `TIMER.FIRE`, tag 0xD (R267). -/
  | timerFire
  /-- `TICK.ISR`, tag 0xE (R268). -/
  | tickIsr
  /-- `RESET`, tag 0xF (R310): the node. -/
  | reset (n : Role)
  /-- `CAN.TX`, the transmit primitive (R141): the node, the kind, the length and the payload. -/
  | canTx (n : Role) (k : Kind) (len : Len) (payload : List Byte)
  /-- `FRAME.GEAR`: the arm of `CAN.RX` for an inbound identifier `ID_GEAR` (R94, R96, R142). -/
  | frameGear
  /-- `FRAME.SPEED`: the arm of `CAN.RX` for `ID_SPEED` (R94, R97, R142). -/
  | frameSpeed
  /-- `FRAME.RPM`: the arm of `CAN.RX` for `ID_RPM` (R94, R98, R142). -/
  | frameRpm
  /-- `FRAME.INDICATOR`: the arm of `CAN.RX` for `ID_INDICATOR` (R94, R99, R142). -/
  | frameIndicator
  /-- `FRAME.UNKNOWN`: the arm of `CAN.RX` for an identifier that is none of the four (R142 c, R229). -/
  | frameUnknown (id : Ident)
  /-- `FRAME.NONE`: the arm of `CAN.RX` for length 0, "no message available" (R93, R142). -/
  | frameNone
  /-- `GEARBYTE.DISPLAY`: the arm of the GEAR handlers for a byte in 0 to 7 (R107, R224, R225). -/
  | gearbyteDisplay (v : Byte)
  /-- `GEARBYTE.SENTINEL`: the arm of the GEAR handlers for the byte 8 (R107, R224, R225). -/
  | gearbyteSentinel
  /-- `GEARBYTE.OUT_OF_RANGE`: the arm of the GEAR handlers for a byte in 9 to 255 (R107, R224, R225). -/
  | gearbyteOutOfRange (v : Byte)
  /-- `IND.OFF`: the arm of `H.IND` for the byte 0 (R101, R228). -/
  | indOff
  /-- `IND.LEFT`: the arm of `H.IND` for the byte 1 (R101, R228). -/
  | indLeft
  /-- `IND.RIGHT`: the arm of `H.IND` for the byte 2 (R101, R228). -/
  | indRight
  /-- `IND.HAZARD`: the arm of `H.IND` for the byte 3 (R101, R228). -/
  | indHazard
  /-- `IND.(ignored)`: the arm of `H.IND` for a byte in 4 to 255 (R228). -/
  | indIgnored (v : Byte)
  /-- `MODE.NORMAL`: the arm of `DISPATCH` in NORMAL (R102, R221, R222). -/
  | modeNormal
  /-- `MODE.COLLISION`: the arm of `DISPATCH` in COLLISION (R102, R221, R223). -/
  | modeCollision
  /-- `KEY.P1.INCREMENT`: the arm of `GEAR.STEP` for the mask `K_INC` (R104, R192). -/
  | keyP1Increment
  /-- `KEY.P1.DECREMENT`: the arm of `GEAR.STEP` for the mask `K_DEC` (R104, R192). -/
  | keyP1Decrement
  /-- `KEY.P1.COLLISION`: the arm of `GEAR.STEP` for the mask `K_COL` (R104, R192). -/
  | keyP1Collision
  /-- `KEY.P2.LEFT`: the arm of `IND.STEP` for the mask `K_LEFT` (R105, R195). -/
  | keyP2Left
  /-- `KEY.P2.RIGHT`: the arm of `IND.STEP` for the mask `K_RIGHT` (R105, R195). -/
  | keyP2Right
  /-- `KEY.P2.HAZARD`: the arm of `IND.STEP` for the mask `K_HAZ` (R105, R195). -/
  | keyP2Hazard
  /-- `KEY.P2.OFF`: the arm of `IND.STEP` for the mask `K_OFF` (R105, R195). -/
  | keyP2Off
  /-- `KEY.ALL_RELEASED`: the arm of `KEY.EDGE` for the mask `ALL_RELEASED` (R103, R182): the node. -/
  | keyAllReleased (n : Producer)
deriving DecidableEq, Repr

/-- The formats of spec/opcode_table.json. `PAYLOAD_BYTE0` is read by the kind of the message that carries the byte
and `KEYMASK` by the node whose keys are read, so each of those two is split in two (log 2). -/
inductive Format where
  /-- `OP4`: a 4-bit operation tag (R110, R111). -/
  | op4
  /-- `PRIMITIVE`: the arguments of `CAN.TX` (R141). -/
  | primitive
  /-- `FRAME_ID11`: an 11-bit identifier (R94). -/
  | frameId11
  /-- `FRAME_LEN`: a 4-bit length (R93). -/
  | frameLen
  /-- `PAYLOAD_BYTE0` of a GEAR message (R107). -/
  | gearByte
  /-- `PAYLOAD_BYTE0` of an INDICATOR message (R101). -/
  | indByte
  /-- `MODE1`: a 1-bit mode code (R102). -/
  | mode1
  /-- `KEYMASK` on `P1` (R104). -/
  | keyMaskP1
  /-- `KEYMASK` on `P2` (R105). -/
  | keyMaskP2
deriving DecidableEq, Repr, Inhabited

/-- One step word: the bits of a table row under its format, and what comes with a step that is no part of the row's
bits (R130, log 2): the node that steps (read only where the row leaves it open, log 26), the values on its two input
ports, the payload argument of `CAN.TX`. An operation reads only what its rule draws. -/
structure StepWord where
  format : Format
  bits : BitVec 16
  node : Role
  keyIn : KeyMask
  valIn : NumValue
  payload : List Byte
deriving DecidableEq, Repr

/-- Why a step word is no row of any table (log 14). -/
inductive DecodeError where
  /-- Bits outside the width of the word's format are not 0. -/
  | strayBits
  /-- The tag's operation is performed by the producers only, and the word names `C` (R111). -/
  | noSuchAgent
  /-- A `FRAME_LEN` word whose length is not 0: the table has a row for length 0 only (R93). -/
  | lengthNotZero
  /-- A kind code in 5 to 7, which is never produced (R95). -/
  | badKindCode
  /-- A key mask that is no key of the node and not `ALL_RELEASED` (R104, R105). -/
  | unmatchedMask
deriving DecidableEq, Repr

end Sys2Proof
end

