-- ==== Sys2Proof/Machine/State.lean ====
section
/-! DEFINITION. The state of the core (10_state.md), plain data: every register the spec names, the payload bytes as
one memory, and three fields of the model's own. -/

namespace Sys2Proof.Machine

/-- The seven frame slots whose payload bytes the core holds (R60 a, R61). -/
inductive Slot where
  | p1tx | p1rx | p2tx | p2rx | ctx | crx | cmsg
deriving DecidableEq, Repr

/-- The payload memory: `(address, byte)` pairs with strictly rising addresses. An address that is not listed holds no
value (R61, R62, log 11). -/
abbrev Memory := List Host.Cell

/-- Transmit slot, less its payload bytes (R21). -/
structure TxSlot where
  id : Ident
  len : Len
  req : Bool
deriving DecidableEq, Repr

/-- Receive slot, less its payload bytes (R22). -/
structure RxSlot where
  id : Ident
  len : Len
  full : Bool
deriving DecidableEq, Repr

/-- Key event register `KEV` (R23). -/
structure KeyEvent where
  valid : Bool
  mask : KeyMask
deriving DecidableEq, Repr

/-- Message register `MSG`, less its payload bytes (R25). -/
structure Message where
  kind : Kind
  len : Len
deriving DecidableEq, Repr

/-- The registers that both producers have (R20 to R24, R28, R29). -/
structure ProducerNode where
  tx : TxSlot
  rx : RxSlot
  phase : Phase
  kev : KeyEvent
  num : NumValue
  armed : Bool
deriving DecidableEq, Repr

/-- The registers of `C` (R20 to R22, R25, R29, R31 to R35, R44). -/
structure ConsumerNode where
  tx : TxSlot
  rx : RxSlot
  phase : Phase
  msg : Message
  mode : Mode
  tick : Tick
  tickIf : Bool
  lampL : Bool
  lampR : Bool
  out : List DispEvent
deriving DecidableEq, Repr

/-- The state of the system (R20). `feed`, `turn` and `free` are the model's own: the step words scripted from outside,
how many steps the free schedule has taken, how many free values have been used (logs 3, 4, 12). -/
structure State where
  p1 : ProducerNode
  gear : Gear
  p2 : ProducerNode
  ind : Ind
  c : ConsumerNode
  mem : Memory
  feed : List StepWord
  turn : Nat
  free : Nat
deriving DecidableEq, Repr

/-- Where a step can stop on the state's data. No reachable state does either. -/
inductive Fault where
  /-- Raised by a read of a payload byte that holds no value (R45, R61, R62), at the address given. Safe: the machine
  would go on. -/
  | noValue (address : Nat)
  /-- Raised by a read of more than eight payload bytes of a slot: the address does not exist (R60, R62). Safe. -/
  | payloadRange
deriving DecidableEq, Repr

/-- Where a step has no meaning. -/
inductive Refusal where
  /-- Raised by `exec`'s arm of an instruction without a meaning yet. Safe. -/
  | notModelled (mnemonic : String)
  /-- Raised by tag `0x0`, which names no operation (R112). Safe. -/
  | reservedTag
  /-- Raised by `CAN.TX` with length 0 or above 8, a payload of another size, or kind UNKNOWN (R141). Safe. -/
  | badTransmit
  /-- Raised by `SAMPLE` of a value above the node's maximum (R191). Safe. -/
  | valueOutOfRange
  /-- Raised by `BUS.DELIVER` of a node with no pending request and by `TICK.ISR` with no pending tick: the agent is
  not enabled and there is no such step (R81, R143, R268). Safe. -/
  | notEnabled
  /-- Raised by a step whose word is no row of any table (R113, log 14). Safe. -/
  | undecodable (e : DecodeError)
deriving DecidableEq, Repr

/-- What a meaning answers. -/
abbrev Result := Host.Outcome State Fault Refusal

/-- The events of `DrawLabels`, in list order (R230). -/
def drawLabels : List DispEvent := Config.labels.map fun l => .printAt l.1 l.2

/-- The boot events of `C` (R313). -/
def bootEvents : List DispEvent := .clear :: drawLabels

/-- A transmit slot after `RESET` (R45); `id` and `len` are log 9's values. -/
def TxSlot.reset : TxSlot := { id := 0, len := 0, req := false }

/-- A receive slot after `RESET` (R45); `id` and `len` are log 9's values. -/
def RxSlot.reset : RxSlot := { id := 0, len := 0, full := false }

/-- The registers of a producer after `RESET` (R45); `kev.mask` and `num` are log 9's values. -/
def ProducerNode.reset : ProducerNode :=
  { tx := TxSlot.reset
    rx := RxSlot.reset
    phase := 0
    kev := { valid := false, mask := 0 }
    num := 0
    armed := true }

/-- The registers of `C` after `RESET` (R45, R313); `msg.kind` is log 9's value. -/
def ConsumerNode.reset : ConsumerNode :=
  { tx := TxSlot.reset
    rx := RxSlot.reset
    phase := 0
    msg := { kind := .gear, len := 0 }
    mode := .normal
    tick := 0
    tickIf := false
    lampL := false
    lampR := false
    out := bootEvents }

/-- `P1.gear` after `RESET` (R45). -/
def gearReset : Gear := 0

/-- `P2.ind` after `RESET` (R45). -/
def indReset : Ind := .off

/-- The machine right after reset: all three nodes have been reset and no other step has been taken (R312). -/
def State.reset : State :=
  { p1 := ProducerNode.reset
    gear := gearReset
    p2 := ProducerNode.reset
    ind := indReset
    c := ConsumerNode.reset
    mem := []
    feed := []
    turn := 0
    free := 0 }

end Sys2Proof.Machine
end

