-- ==== Sys2Proof/Machine/Memory.lean ====
section
/-! DEFINITION. The payload memory (20_memory.md R60 to R62): reading and writing bytes, `MemRead` and `MemWrite`. -/

namespace Sys2Proof.Machine

/-- The number of a slot (log 11). -/
def slotIndex : Slot → Nat
  | .p1tx => 0
  | .p1rx => 1
  | .p2tx => 2
  | .p2rx => 3
  | .ctx => 4
  | .crx => 5
  | .cmsg => 6

/-- The address of payload byte 0 of a slot: slot `k` has the `LEN_MAX` addresses from `LEN_MAX * k` on (R61). -/
def slotBase (sl : Slot) : Nat := Config.lenMax * slotIndex sl

/-- The first address that does not exist: seven slots of `LEN_MAX` bytes (R60). -/
def memorySize : Nat := Config.lenMax * 7

/-- Whether an address is a payload byte of a slot. -/
def inSlot (sl : Slot) (a : Nat) : Bool := slotBase sl ≤ a && a < slotBase sl + Config.lenMax

/-- The byte at an address, if it holds a value. -/
def readByte : Memory → Nat → Option Byte
  | [], _ => none
  | (a, b) :: m, x => if x = a then some b else readByte m x

/-- Give the byte at an address a value. -/
def writeByte : Memory → Nat → Byte → Memory
  | [], x, v => [(x, v)]
  | (a, b) :: m, x, v =>
    if x < a then (x, v) :: (a, b) :: m
    else if x = a then (x, v) :: m
    else (a, b) :: writeByte m x v

/-- Leave every byte of a slot without a value (R62, R45). -/
def clearSlot (sl : Slot) (m : Memory) : Memory := m.filter fun cell => !inSlot sl cell.1

/-- Give consecutive bytes from an address on the values of a list. -/
def writeFrom (m : Memory) (a : Nat) : List Byte → Memory
  | [] => m
  | b :: bs => writeByte (writeFrom m (a + 1) bs) a b

/-- `MemWrite(slot, n, v)` with `n = |v|` (R62): bytes 0 to `n - 1` take the values and the slot's other bytes are left
without a value. Callers give at most eight bytes. -/
def memWrite (sl : Slot) (bytes : List Byte) (m : Memory) : Memory :=
  writeFrom (clearSlot sl m) (slotBase sl) bytes

/-- `n` consecutive bytes from an address on. -/
def readFrom (m : Memory) (a : Nat) : Nat → Except Fault (List Byte)
  | 0 => .ok []
  | n + 1 =>
    match readByte m a with
    | none => .error (.noValue a)
    | some b =>
      match readFrom m (a + 1) n with
      | .ok bs => .ok (b :: bs)
      | .error f => .error f

/-- `MemRead(slot, n)` (R62). -/
def memRead (sl : Slot) (n : Nat) (m : Memory) : Except Fault (List Byte) :=
  if n ≤ Config.lenMax then readFrom m (slotBase sl) n else .error .payloadRange

/-- The canonical form: addresses strictly rise, and each exists. No entry can equal what an unlisted address reads
as, since that is no value. -/
def Memory.wf (m : Memory) : Bool :=
  decide (m.Pairwise fun x y => x.1 < y.1) && m.all fun cell => cell.1 < memorySize

end Sys2Proof.Machine
end

