-- ==== Sys2Proof/Machine/Codec.lean ====
section
/-! DEFINITION. MessageCodec (41_codec.md): pure functions, no state (R173). -/

namespace Sys2Proof.Machine

/-- `ID_OF` (R160); not defined on UNKNOWN. -/
def idOf : Kind → Option Ident
  | .gear => some Config.idGear
  | .speed => some Config.idSpeed
  | .rpm => some Config.idRpm
  | .indicator => some Config.idIndicator
  | .unknown => none

/-- `KIND_OF` (R161): all 11 bits are compared. -/
def kindOf (i : Ident) : Kind :=
  if i = Config.idGear then .gear
  else if i = Config.idSpeed then .speed
  else if i = Config.idRpm then .rpm
  else if i = Config.idIndicator then .indicator
  else .unknown

/-- `EXP_LEN` (R162): the least and the greatest length a producer sends. -/
def expLen : Kind → Option (Nat × Nat)
  | .gear => some (1, 1)
  | .speed => some (1, Config.speedDigits)
  | .rpm => some (1, Config.rpmDigits)
  | .indicator => some (1, 1)
  | .unknown => none

/-- The byte of one decimal digit, `0x30 + d` (R100, R165). -/
def digitByte (d : Nat) : Byte := BitVec.ofNat 8 (0x30 + d)

/-- `DIGITS` (R165), its second form, by recursion on a bound that is at least the number of divisions. -/
def digitsWithin : Nat → Nat → List Byte
  | 0, v => [digitByte (v % 10)]
  | fuel + 1, v =>
    if v < 10 then [digitByte v] else digitsWithin fuel (v / 10) ++ [digitByte (v % 10)]

/-- `DIGITS(v)` for `v > 0` (R165). -/
def digits (v : Nat) : List Byte := digitsWithin v v

/-- `ENC_NUM` (R164): the zero case is `"00"` (R166). -/
def encNum (v : Nat) : List Byte :=
  if v = 0 then Config.zeroDigits else digits v

/-- One digit of `DEC_NUM`: defined on `0x30..0x39` (R168). -/
def digitOf (b : Byte) : Option Nat :=
  if 0x30 ≤ b.toNat ∧ b.toNat ≤ 0x39 then some (b.toNat - 0x30) else none

/-- `DEC_NUM` after the value `acc` of the bytes to the left (R168). -/
def decNumFrom : Nat → List Byte → Option Nat
  | acc, [] => some acc
  | acc, b :: bs =>
    match digitOf b with
    | none => none
    | some d => decNumFrom (acc * 10 + d) bs

/-- `DEC_NUM` (R168): defined on one or more digit bytes; for tests only, no operation computes it. -/
def decNum : List Byte → Option Nat
  | [] => none
  | b :: bs => decNumFrom 0 (b :: bs)

/-- The byte of an indicator state: OFF 0, LEFT 1, RIGHT 2, HAZARD 3 (R101). -/
def indCode : Ind → Nat
  | .off => 0
  | .left => 1
  | .right => 2
  | .hazard => 3

/-- The byte of an indicator state (R99, R101). -/
def indByte (i : Ind) : Byte := BitVec.ofNat 8 (indCode i)

/-- The internal code of a kind (R95). -/
def kindCode : Kind → Nat
  | .gear => 0
  | .speed => 1
  | .rpm => 2
  | .indicator => 3
  | .unknown => 4

/-- The internal code of a mode (R102). -/
def modeCode : Mode → Nat
  | .normal => 0
  | .collision => 1

/-- The arguments of a transmission: `(kind, payload, length)` (R169 to R172). -/
abbrev Transmission := Kind × List Byte × Nat

/-- `MK_GEAR` (R169). -/
def mkGear (g : Gear) : Transmission := (.gear, [g.setWidth 8], 1)

/-- `MK_SPEED` (R170). -/
def mkSpeed (v : NumValue) : Transmission := (.speed, encNum v.toNat, (encNum v.toNat).length)

/-- `MK_RPM` (R171). -/
def mkRpm (v : NumValue) : Transmission := (.rpm, encNum v.toNat, (encNum v.toNat).length)

/-- `MK_IND` (R172). -/
def mkInd (s : Ind) : Transmission := (.indicator, [indByte s], 1)

end Sys2Proof.Machine
end

