-- ==== Sys2Proof/Machine/Tables.lean ====
section
/-! DEFINITION. The fixed tables: the classes of a received byte (R101, R107), the key maps (R104, R105), the kind
codes (R95), the operation lists of the sequencers (R121 to R123) and the bound on a sampled value (R40). -/

namespace Sys2Proof.Machine

/-- The classes of a received GEAR byte (R107). -/
inductive GearClass where
  | display | sentinel | outOfRange
deriving DecidableEq, Repr

/-- The class of a GEAR byte: 0 to 7, 8, 9 to 255 (R107). -/
def gearClass (v : Byte) : GearClass :=
  if v.toNat = Config.sentinel then .sentinel
  else if v.toNat ≤ Config.gearTop then .display
  else .outOfRange

/-- The indicator state of a byte: 0 to 3; bytes 4 to 255 are not states (R101). -/
def indOf (v : Byte) : Option Ind :=
  if v = indByte .off then some .off
  else if v = indByte .left then some .left
  else if v = indByte .right then some .right
  else if v = indByte .hazard then some .hazard
  else none

/-- The kind of an internal code; 5 to 7 are never produced (R95). -/
def kindOfCode (code : Nat) : Option Kind :=
  if code = 0 then some .gear
  else if code = 1 then some .speed
  else if code = 2 then some .rpm
  else if code = 3 then some .indicator
  else if code = 4 then some .unknown
  else none

/-- The key functions of `P1` (R104). -/
inductive GearKey where
  | increment | decrement | collision
deriving DecidableEq, Repr

/-- The key map of `P1`, by equality of the whole mask (R104). -/
def gearKeyOf (m : KeyMask) : Option GearKey :=
  if m = Config.kInc then some .increment
  else if m = Config.kDec then some .decrement
  else if m = Config.kCol then some .collision
  else none

/-- The key map of `P2`, by equality of the whole mask (R105). -/
def indKeyOf (m : KeyMask) : Option Ind :=
  if m = Config.kOff then some .off
  else if m = Config.kLeft then some .left
  else if m = Config.kRight then some .right
  else if m = Config.kHaz then some .hazard
  else none

/-- The next gear for a key function (R192, R193): the columns INCREMENT, DECREMENT, COLLISION. -/
def gearAfter (k : GearKey) (g : Gear) : Gear :=
  match k with
  | .increment => if g.toNat < Config.gearTop then g + 1 else g
  | .decrement =>
    if g.toNat = Config.sentinel then 1
    else if 1 < g.toNat then g - 1
    else g
  | .collision => BitVec.ofNat 4 Config.sentinel

/-- `CYCLE_LEN(role)` (R29). -/
def cycleLen : Role → Nat
  | .p1 => 5
  | .p2 => 5
  | .c => 2

/-- The operation list of a node's sequencer, by phase (R121 to R123): the tags of R111. -/
def sequencer : Role → List (BitVec 4)
  | .p1 => [0x2, 0x3, 0x4, 0x6, 0x7]
  | .p2 => [0x2, 0x3, 0x5, 0x8, 0x9]
  | .c => [0xA, 0xB]

/-- The contract of `n.val_in` (R40): `SPEED_MAX` on `P1`, `RPM_MAX` on `P2`. -/
def valMax : Producer → Nat
  | .p1 => Config.speedMax
  | .p2 => Config.rpmMax

end Sys2Proof.Machine

namespace Sys2Proof

/-- A producer as a node role. -/
def Producer.role : Producer → Role
  | .p1 => .p1
  | .p2 => .p2

/-- The producer a role is, if it is one. -/
def Role.producer? : Role → Option Producer
  | .p1 => some .p1
  | .p2 => some .p2
  | .c => none

end Sys2Proof
end

