-- ==== Sys2Proof/Machine/Ops.lean ====
section
/-! DEFINITION. The named operations over registers and slots: reading and writing a node's registers, the phase, the
output trace, the transmit primitive, a delivery, a poll, the tick interrupt, a node's reset. -/

namespace Sys2Proof.Machine

/-! ### A node's registers -/

/-- The registers of a producer. -/
def State.prod (s : State) : Producer → ProducerNode
  | .p1 => s.p1
  | .p2 => s.p2

/-- Write the registers of a producer. -/
def State.setProd (s : State) (n : Producer) (r : ProducerNode) : State :=
  match n with
  | .p1 => { s with p1 := r }
  | .p2 => { s with p2 := r }

/-- `n.tx` (R21). -/
def State.tx (s : State) : Role → TxSlot
  | .p1 => s.p1.tx
  | .p2 => s.p2.tx
  | .c => s.c.tx

/-- Write `n.tx`. -/
def State.setTx (s : State) (n : Role) (t : TxSlot) : State :=
  match n with
  | .p1 => { s with p1 := { s.p1 with tx := t } }
  | .p2 => { s with p2 := { s.p2 with tx := t } }
  | .c => { s with c := { s.c with tx := t } }

/-- `n.rx` (R22). -/
def State.rx (s : State) : Role → RxSlot
  | .p1 => s.p1.rx
  | .p2 => s.p2.rx
  | .c => s.c.rx

/-- Write `n.rx`. -/
def State.setRx (s : State) (n : Role) (r : RxSlot) : State :=
  match n with
  | .p1 => { s with p1 := { s.p1 with rx := r } }
  | .p2 => { s with p2 := { s.p2 with rx := r } }
  | .c => { s with c := { s.c with rx := r } }

/-- `n.phase` (R29). -/
def State.phase (s : State) : Role → Phase
  | .p1 => s.p1.phase
  | .p2 => s.p2.phase
  | .c => s.c.phase

/-- Write `n.phase`. -/
def State.setPhase (s : State) (n : Role) (p : Phase) : State :=
  match n with
  | .p1 => { s with p1 := { s.p1 with phase := p } }
  | .p2 => { s with p2 := { s.p2 with phase := p } }
  | .c => { s with c := { s.c with phase := p } }

/-- Write the registers of `C`. -/
def State.setC (s : State) (r : ConsumerNode) : State := { s with c := r }

/-- Write the payload memory. -/
def State.setMem (s : State) (m : Memory) : State := { s with mem := m }

/-- The next phase, `(n.phase + 1) mod CYCLE_LEN(role)` (R29). -/
def nextPhase (n : Role) (p : Phase) : Phase := BitVec.ofNat 3 ((p.toNat + 1) % cycleLen n)

/-- The end of every sequencer operation: `n.phase <- (n.phase + 1) mod CYCLE_LEN(role)` (R29). -/
def State.advance (s : State) (n : Role) : State := s.setPhase n (nextPhase n (s.phase n))

/-- The payload bytes of `n.tx`. -/
def txSlot : Role → Slot
  | .p1 => .p1tx
  | .p2 => .p2tx
  | .c => .ctx

/-- The payload bytes of `n.rx`. -/
def rxSlot : Role → Slot
  | .p1 => .p1rx
  | .p2 => .p2rx
  | .c => .crx

/-- `emit`: append output events to `C.out` (R14, R44). -/
def State.emit (s : State) (events : List DispEvent) : State :=
  s.setC { s.c with out := s.c.out ++ events }

/-- Continue after a meaning that answers a next state. -/
def andThen (o : Result) (f : State → State) : Result :=
  match o with
  | .next s => .next (f s)
  | .fault r => .fault r
  | .refused r => .refused r

/-- Continue with a value read from the payload memory, or stop with the read's fault. -/
def withRead {α : Type} (x : Except Fault α) (f : α → State) : Result :=
  match x with
  | .ok v => .next (f v)
  | .error e => .fault e

/-! ### Transport (40_transport.md) -/

/-- `CAN.TX(kind, payload, len)` on a node (R141): replaces the staged frame whole and raises the request; the old
request bit is not read. -/
def transmit (n : Role) (t : Transmission) (s : State) : Result :=
  match idOf t.1 with
  | none => .refused .badTransmit
  | some id =>
    if t.2.2 = 0 ∨ Config.lenMax < t.2.2 ∨ t.2.1.length ≠ t.2.2 then .refused .badTransmit
    else .next ((s.setTx n { id := id, len := BitVec.ofNat 4 t.2.2, req := true }).setMem
      (memWrite (txSlot n) t.2.1 s.mem))

/-- The nodes other than the sender (R143, R147). -/
def receivers : Role → List Role
  | .p1 => [.p2, .c]
  | .p2 => [.p1, .c]
  | .c => [.p1, .p2]

/-- One frame into one receive slot, whether or not it holds an unread frame (R143). -/
def putFrame (id : Ident) (len : Len) (bytes : List Byte) (s : State) (r : Role) : State :=
  (s.setRx r { id := id, len := len, full := true }).setMem (memWrite (rxSlot r) bytes s.mem)

/-- `BUS.DELIVER` of a sender (R143): the whole frame to every other node, and the request is done. -/
def deliver (src : Role) (s : State) : Result :=
  if (s.tx src).req then
    withRead (memRead (txSlot src) (s.tx src).len.toNat s.mem) fun bytes =>
      ((receivers src).foldl (putFrame (s.tx src).id (s.tx src).len bytes) s).setTx src
        { s.tx src with req := false }
  else .refused .notEnabled

/-- A poll that finds a frame (R142): the kind of its identifier, its length, its payload; the slot is freed. -/
def takeFrame (s : State) : Result :=
  withRead (memRead .crx s.c.rx.len.toNat s.mem) fun bytes =>
    (s.setC { s.c with msg := { kind := kindOf s.c.rx.id, len := s.c.rx.len }
                       rx := { s.c.rx with full := false } }).setMem (memWrite .cmsg bytes s.mem)

/-- A poll that finds none (R142): "no message", and `kind` and `data` hold no value (log 12). -/
def noMessage (s : State) : State :=
  { (s.setC { s.c with msg := { kind := Config.freeKind s.free, len := 0 } }).setMem (clearSlot .cmsg s.mem) with
    free := s.free + 1 }

/-! ### Key events (42_keys.md) -/

/-- `KEV <- (valid = 1, mask = m)`. -/
def reportEvent (n : Producer) (m : KeyMask) (s : State) : State :=
  s.setProd n { s.prod n with kev := { valid := true, mask := m } }

/-- `KEV <- (valid = 0)`: `mask` holds no value (R23, log 12). -/
def reportNone (n : Producer) (s : State) : State :=
  { s.setProd n { s.prod n with kev := { valid := false, mask := Config.freeMask s.free } } with
    free := s.free + 1 }

/-- Write `n.armed` (R28). -/
def setArmed (n : Producer) (a : Bool) (s : State) : State :=
  s.setProd n { s.prod n with armed := a }

/-! ### The tick interrupt, the core's only one (60_exceptions.md R287 to R292) -/

/-- Taking the tick interrupt and returning from it (R268, R290, R291): nothing is saved, no vector, no mode; the
counter advances with its wrap and the pending flag is cleared, in one step. -/
def takeTickInterrupt (s : State) : State :=
  s.setC { s.c with
    tick := if s.c.tick.toNat = Config.tickMod - 1 then 0 else s.c.tick + 1
    tickIf := false }

/-! ### Reset (70_reset_and_hazards.md) -/

/-- Every register of a node at its reset value (R45, R310); its payload bytes hold no value. -/
def resetNode (n : Role) (s : State) : State :=
  match n with
  | .p1 => { s with p1 := ProducerNode.reset, gear := gearReset
                    mem := clearSlot .p1rx (clearSlot .p1tx s.mem) }
  | .p2 => { s with p2 := ProducerNode.reset, ind := indReset
                    mem := clearSlot .p2rx (clearSlot .p2tx s.mem) }
  | .c => { s with c := ConsumerNode.reset
                   mem := clearSlot .cmsg (clearSlot .crx (clearSlot .ctx s.mem)) }

end Sys2Proof.Machine
end

