-- ==== Sys2Proof/Machine/Flags.lean ====
section
/-! DEFINITION. The one-bit state of R30: how each bit's new value is computed. -/

namespace Sys2Proof.Machine

/-- The truth table of a STATE_CHANGE read (R182, R183): from `armed` and the mask read, `armed` after and whether the
read reports an event. -/
def edge (armed : Bool) (m : KeyMask) : Bool × Bool :=
  if m = Config.allReleased then (true, false)
  else if armed then (false, true)
  else (false, false)

/-- Whether a tick is in the on phase (R260, U7: the comparison with the threshold). -/
def onPhase (t : Tick) : Bool := decide (t.toNat ≤ Config.halfPeriod)

/-- `BLINK` (R260): the two lamp bits. -/
def blink (i : Ind) (t : Tick) : Bool × Bool :=
  let on := decide (i ≠ .off) && onPhase t
  (on && (decide (i = .left) || decide (i = .hazard)),
   on && (decide (i = .right) || decide (i = .hazard)))

/-- `TickSnapshot()` (R266): the counter read whole. -/
def tickSnapshot (s : State) : Tick := s.c.tick

/-- Both lamps written together (R228). -/
def setLamps (lamps : Bool × Bool) (s : State) : State :=
  s.setC { s.c with lampL := lamps.1, lampR := lamps.2 }

/-- `C.tick_if <- 1` (R267). -/
def raiseTick (s : State) : State := s.setC { s.c with tickIf := true }

/-- `C.mode <- m` (R31). -/
def setMode (m : Mode) (s : State) : State := s.setC { s.c with mode := m }

end Sys2Proof.Machine
end

