-- ==== Sys2Proof/Machine/Operands.lean ====
section
/-! DEFINITION. The operand forms: what an operation reads from the transient registers before it acts. -/

namespace Sys2Proof.Machine

/-- The key function of the event in `P1.KEV`, if there is an event and its mask is a key (R104, R192). -/
def gearKeyEvent (s : State) : Option GearKey :=
  if s.p1.kev.valid then gearKeyOf s.p1.kev.mask else none

/-- The indicator state the event in `P2.KEV` selects, if there is an event and its mask is a key (R105, R195). -/
def indKeyEvent (s : State) : Option Ind :=
  if s.p2.kev.valid then indKeyOf s.p2.kev.mask else none

/-- Whether `C.MSG` holds a message of a kind (R25: length 0 is "no message"). -/
def hasMessage (k : Kind) (s : State) : Bool :=
  decide (s.c.msg.len ≠ 0) && decide (s.c.msg.kind = k)

/-- `C.MSG.data[0 .. n-1]`. -/
def messageBytes (n : Nat) (s : State) : Except Fault (List Byte) := memRead .cmsg n s.mem

/-- `C.MSG.data[0]` (R237). -/
def messageByte (s : State) : Except Fault Byte :=
  match readByte s.mem (slotBase .cmsg) with
  | some b => .ok b
  | none => .error (.noValue (slotBase .cmsg))

end Sys2Proof.Machine
end

