-- ==== Sys2Proof/Machine/Clock.lean ====
section
/-! DEFINITION. The timer, its interrupt handler, reset and the reserved tag (45_blinker_tick.md,
70_reset_and_hazards.md, R112). -/

namespace Sys2Proof.Machine

/-- `TIMER.FIRE` (R267): a fire while the flag is set is merged. -/
def execTimerFire (s : State) : Result := .next (raiseTick s)

/-- `TICK.ISR` (R268): enabled only while the flag is set. -/
def execTickIsr (s : State) : Result :=
  if s.c.tickIf then .next (takeTickInterrupt s) else .refused .notEnabled

/-- `RESET` (R310). -/
def execReset (n : Role) (s : State) : Result := .next (resetNode n s)

/-- `(reserved)`: tag `0x0` names no operation (R112). -/
def execReserved (_s : State) : Result := .refused .reservedTag

end Sys2Proof.Machine
end

