-- ==== Sys2Proof/Machine/Consumer.lean ====
section
/-! DEFINITION. Dispatcher, CollisionStateMachine and IndicatorBlinker (44_dispatcher.md, 45_blinker_tick.md). -/

namespace Sys2Proof.Machine

/-- The alarm rendering (R231). -/
def alarmEvents : List DispEvent := [.clear, .printAt Config.addrAlarm Config.alarmText]

/-- `H.GEAR_NORMAL` on a byte (R224). -/
def gearNormal (v : Byte) (s : State) : State :=
  match gearClass v with
  | .sentinel => (setMode .collision s).emit alarmEvents
  | .display => s.emit [.printAt Config.addrGear (Config.gearText (Fin.ofNat (Config.gearTop + 1) v.toNat))]
  | .outOfRange => s

/-- What a repeated sentinel draws in COLLISION, for each setting of `ALARM_RERENDER` (R225). -/
def repeatEvents : AlarmRerender → List DispEvent
  | .entryOnly => []
  | .everySentinel => alarmEvents

/-- `H.GEAR_COLLISION` on a byte, for each setting of `ALARM_RERENDER` (R225). -/
def gearCollision (r : AlarmRerender) (v : Byte) (s : State) : State :=
  match gearClass v with
  | .sentinel => s.emit (repeatEvents r)
  | .display => (setMode .normal s).emit (.clear :: drawLabels)
  | .outOfRange => (setMode .normal s).emit (.clear :: drawLabels)

/-- The GEAR handler of the current mode (R221). -/
def gearHandler (v : Byte) (s : State) : State :=
  match s.c.mode with
  | .normal => gearNormal v s
  | .collision => gearCollision Config.alarmRerender v s

/-- The two marker calls of `H.IND` (R228). -/
def markerEvents (lamps : Bool × Bool) : List DispEvent :=
  [.writeAt Config.addrMarkL (if lamps.1 then Config.markL else Config.blank),
   .writeAt Config.addrMarkR (if lamps.2 then Config.markR else Config.blank)]

/-- `H.IND` on an indicator state (R228): both lamps and both markers, from one snapshot of the tick. -/
def renderInd (i : Ind) (s : State) : State :=
  let lamps := blink i (tickSnapshot s)
  (setLamps lamps s).emit (markerEvents lamps)

/-- `H.IND` on a byte (R228): a byte above 3 is ignored. -/
def indHandler (v : Byte) (s : State) : State :=
  match indOf v with
  | some i => renderInd i s
  | none => s

/-- `H.SPEED` and `H.RPM`: the payload bytes as received (R226, R227). -/
def printMessage (addr : DispAddr) (s : State) : Result :=
  withRead (messageBytes s.c.msg.len.toNat s) fun bytes => s.emit [.printAt addr bytes]

/-- Routing in NORMAL, of a message that is there (R221, R222, R229). -/
def routeNormal (s : State) : Result :=
  match s.c.msg.kind with
  | .gear => withRead (messageByte s) fun v => gearNormal v s
  | .speed => printMessage Config.addrSpeed s
  | .rpm => printMessage Config.addrRpm s
  | .indicator => withRead (messageByte s) fun v => indHandler v s
  | .unknown => .next s

/-- Routing in COLLISION, of a message that is there: only GEAR is inspected (R221, R223). -/
def routeCollision (s : State) : Result :=
  match s.c.msg.kind with
  | .gear => withRead (messageByte s) fun v => gearCollision Config.alarmRerender v s
  | .speed => .next s
  | .rpm => .next s
  | .indicator => .next s
  | .unknown => .next s

/-- `DISPATCH`, less the phase (R221). -/
def route (s : State) : Result :=
  if s.c.msg.len = 0 then .next s
  else match s.c.mode with
    | .normal => routeNormal s
    | .collision => routeCollision s

/-- `DISPATCH` (R221). -/
def execDispatch (s : State) : Result := andThen (route s) fun t => t.setPhase .c 0

/-- `MODE.NORMAL` (R102, R221): the arm of `DISPATCH` in NORMAL (log 1). -/
def execModeNormal (s : State) : Result := if s.c.mode = .normal then route s else .next s

/-- `MODE.COLLISION` (R102, R221): the arm of `DISPATCH` in COLLISION (log 1). -/
def execModeCollision (s : State) : Result := if s.c.mode = .collision then route s else .next s

/-- The arm of the GEAR handlers for one byte value: it acts if `C.MSG` is a GEAR message and its byte 0 is that
value (R224, R225, log 1). -/
def gearByteArm (v : Byte) (s : State) : Result :=
  if hasMessage .gear s then withRead (messageByte s) fun b => if b = v then gearHandler v s else s
  else .next s

/-- The arm of `H.IND` for one byte value: it acts in NORMAL, if `C.MSG` is an INDICATOR message and its byte 0 is that
value (R228, log 1). -/
def indByteArm (v : Byte) (s : State) : Result :=
  if s.c.mode = .normal ∧ hasMessage .indicator s then
    withRead (messageByte s) fun b => if b = v then indHandler v s else s
  else .next s

/-- `GEARBYTE.DISPLAY` (R107, R224, R225). -/
def execGearbyteDisplay (v : Byte) (s : State) : Result :=
  if gearClass v = .display then gearByteArm v s else .next s

/-- `GEARBYTE.SENTINEL` (R107, R224, R225). -/
def execGearbyteSentinel (s : State) : Result := gearByteArm (BitVec.ofNat 8 Config.sentinel) s

/-- `GEARBYTE.OUT_OF_RANGE` (R107, R224, R225). -/
def execGearbyteOutOfRange (v : Byte) (s : State) : Result :=
  if gearClass v = .outOfRange then gearByteArm v s else .next s

/-- `IND.OFF` (R101, R228). -/
def execIndOff (s : State) : Result := indByteArm (indByte .off) s

/-- `IND.LEFT` (R101, R228). -/
def execIndLeft (s : State) : Result := indByteArm (indByte .left) s

/-- `IND.RIGHT` (R101, R228). -/
def execIndRight (s : State) : Result := indByteArm (indByte .right) s

/-- `IND.HAZARD` (R101, R228). -/
def execIndHazard (s : State) : Result := indByteArm (indByte .hazard) s

/-- `IND.(ignored)` (R228). -/
def execIndIgnored (v : Byte) (s : State) : Result := if indOf v = none then indByteArm v s else .next s

end Sys2Proof.Machine
end

