-- ==== Sys2Proof/Machine/Keys.lean ====
section
/-! DEFINITION. KeyEdgeDetector (42_keys.md). -/

namespace Sys2Proof.Machine

/-- A STATE_CHANGE read of a mask, less the phase (R182). -/
def edgeRead (n : Producer) (m : KeyMask) (s : State) : State :=
  let r := edge (s.prod n).armed m
  let s' := setArmed n r.1 s
  if r.2 then reportEvent n m s' else reportNone n s'

/-- `KEY.LEVEL` (R181): the mask verbatim; `armed` and the phase are not touched. -/
def execKeyLevel (n : Producer) (m : KeyMask) (s : State) : Result := .next (reportEvent n m s)

/-- `KEY.EDGE` (R182). -/
def execKeyEdge (n : Producer) (m : KeyMask) (s : State) : Result := .next ((edgeRead n m s).advance n.role)

/-- `KEY.ALL_RELEASED` (R103, R182): the arm of `KEY.EDGE` that re-arms and reports no event (log 1). -/
def execKeyAllReleased (n : Producer) (s : State) : Result := .next (edgeRead n Config.allReleased s)

end Sys2Proof.Machine
end

