-- ==== Sys2Proof/Machine/Producers.lean ====
section
/-! DEFINITION. The producers (43_producers.md): the sample, the two selectors, the four transmissions. -/

namespace Sys2Proof.Machine

/-- `SAMPLE` (R191): a value above the node's maximum is refused. -/
def execSample (n : Producer) (v : NumValue) (s : State) : Result :=
  if valMax n < v.toNat then .refused .valueOutOfRange
  else .next ((s.setProd n { s.prod n with num := v }).advance n.role)

/-- A key function applied to the gear latch (R192). -/
def applyGearKey (k : GearKey) (s : State) : State := { s with gear := gearAfter k s.gear }

/-- A key function applied to the indicator latch (R195). -/
def applyIndKey (i : Ind) (s : State) : State := { s with ind := i }

/-- The arm of `GEAR.STEP` for one key function: it acts if the event in `P1.KEV` is that key's (R192, log 1). -/
def gearKeyArm (k : GearKey) (s : State) : State :=
  if gearKeyEvent s = some k then applyGearKey k s else s

/-- The arm of `IND.STEP` for one key: it acts if the event in `P2.KEV` is that key's (R195, log 1). -/
def indKeyArm (i : Ind) (s : State) : State :=
  if indKeyEvent s = some i then applyIndKey i s else s

/-- `GEAR.STEP` (R192). -/
def execGearStep (s : State) : Result :=
  match gearKeyEvent s with
  | some k => .next ((applyGearKey k s).advance .p1)
  | none => .next (s.advance .p1)

/-- `IND.STEP` (R195). -/
def execIndStep (s : State) : Result :=
  match indKeyEvent s with
  | some i => .next ((applyIndKey i s).advance .p2)
  | none => .next (s.advance .p2)

/-- `KEY.P1.INCREMENT` (R104, R192). -/
def execKeyP1Increment (s : State) : Result := .next (gearKeyArm .increment s)

/-- `KEY.P1.DECREMENT` (R104, R192). -/
def execKeyP1Decrement (s : State) : Result := .next (gearKeyArm .decrement s)

/-- `KEY.P1.COLLISION` (R104, R192). -/
def execKeyP1Collision (s : State) : Result := .next (gearKeyArm .collision s)

/-- `KEY.P2.LEFT` (R105, R195). -/
def execKeyP2Left (s : State) : Result := .next (indKeyArm .left s)

/-- `KEY.P2.RIGHT` (R105, R195). -/
def execKeyP2Right (s : State) : Result := .next (indKeyArm .right s)

/-- `KEY.P2.HAZARD` (R105, R195). -/
def execKeyP2Hazard (s : State) : Result := .next (indKeyArm .hazard s)

/-- `KEY.P2.OFF` (R105, R195). -/
def execKeyP2Off (s : State) : Result := .next (indKeyArm .off s)

/-- `TX.GEAR` (R197). -/
def execTxGear (s : State) : Result := andThen (transmit .p1 (mkGear s.gear) s) fun t => t.advance .p1

/-- `TX.SPEED` (R198). -/
def execTxSpeed (s : State) : Result := andThen (transmit .p1 (mkSpeed s.p1.num) s) fun t => t.advance .p1

/-- `TX.RPM` (R199). -/
def execTxRpm (s : State) : Result := andThen (transmit .p2 (mkRpm s.p2.num) s) fun t => t.advance .p2

/-- `TX.IND` (R200). -/
def execTxInd (s : State) : Result := andThen (transmit .p2 (mkInd s.ind) s) fun t => t.advance .p2

end Sys2Proof.Machine
end

