-- ==== Sys2Proof/Machine/Transport.lean ====
section
/-! DEFINITION. CanTransport (40_transport.md): the primitive, the poll and its arms, the delivery. -/

namespace Sys2Proof.Machine

/-- `CAN.TX` (R141). -/
def execCanTx (n : Role) (k : Kind) (len : Len) (payload : List Byte) (s : State) : Result :=
  transmit n (k, payload, len.toNat) s

/-- `CAN.RX` (R142). -/
def execCanRx (s : State) : Result :=
  if s.c.rx.full then andThen (takeFrame s) fun t => t.advance .c
  else .next ((noMessage s).advance .c)

/-- `BUS.DELIVER` (R143). -/
def execBusDeliver (src : Role) (s : State) : Result := deliver src s

/-- The arm of `CAN.RX` for one kind of identifier: it acts if the receive slot holds an unread frame whose identifier
is of that kind (R142, R161, log 1). -/
def frameArm (k : Kind) (s : State) : Result :=
  if s.c.rx.full ∧ kindOf s.c.rx.id = k then takeFrame s else .next s

/-- `FRAME.GEAR` (R96, R142). -/
def execFrameGear (s : State) : Result := frameArm .gear s

/-- `FRAME.SPEED` (R97, R142). -/
def execFrameSpeed (s : State) : Result := frameArm .speed s

/-- `FRAME.RPM` (R98, R142). -/
def execFrameRpm (s : State) : Result := frameArm .rpm s

/-- `FRAME.INDICATOR` (R99, R142). -/
def execFrameIndicator (s : State) : Result := frameArm .indicator s

/-- `FRAME.UNKNOWN` (R142 c, R229): the slot's identifier is the one given and none of the four. -/
def execFrameUnknown (id : Ident) (s : State) : Result :=
  if s.c.rx.id = id then frameArm .unknown s else .next s

/-- `FRAME.NONE` (R93, R142 a and d): the arm of `CAN.RX` when there is no unread frame, or one of length 0. -/
def execFrameNone (s : State) : Result :=
  if s.c.rx.full then if s.c.rx.len = 0 then takeFrame s else .next s
  else .next (noMessage s)

end Sys2Proof.Machine
end

