-- ==== Sys2Proof/Machine/Dispatch.lean ====
section
/-! DEFINITION. The dispatch: one arm per constructor of `Instr`, each one call of its meaning. -/

namespace Sys2Proof.Machine

def exec (i : Instr) (s : State) : Host.Outcome State Fault Refusal :=
  match i with
  | .reserved => Sys2Proof.Machine.execReserved s
  | .keyLevel n m => Sys2Proof.Machine.execKeyLevel n m s
  | .keyEdge n m => Sys2Proof.Machine.execKeyEdge n m s
  | .sample n v => Sys2Proof.Machine.execSample n v s
  | .gearStep => Sys2Proof.Machine.execGearStep s
  | .indStep => Sys2Proof.Machine.execIndStep s
  | .txGear => Sys2Proof.Machine.execTxGear s
  | .txSpeed => Sys2Proof.Machine.execTxSpeed s
  | .txRpm => Sys2Proof.Machine.execTxRpm s
  | .txInd => Sys2Proof.Machine.execTxInd s
  | .canRx => Sys2Proof.Machine.execCanRx s
  | .dispatch => Sys2Proof.Machine.execDispatch s
  | .busDeliver src => Sys2Proof.Machine.execBusDeliver src s
  | .timerFire => Sys2Proof.Machine.execTimerFire s
  | .tickIsr => Sys2Proof.Machine.execTickIsr s
  | .reset n => Sys2Proof.Machine.execReset n s
  | .canTx n k len payload => Sys2Proof.Machine.execCanTx n k len payload s
  | .frameGear => Sys2Proof.Machine.execFrameGear s
  | .frameSpeed => Sys2Proof.Machine.execFrameSpeed s
  | .frameRpm => Sys2Proof.Machine.execFrameRpm s
  | .frameIndicator => Sys2Proof.Machine.execFrameIndicator s
  | .frameUnknown id => Sys2Proof.Machine.execFrameUnknown id s
  | .frameNone => Sys2Proof.Machine.execFrameNone s
  | .gearbyteDisplay v => Sys2Proof.Machine.execGearbyteDisplay v s
  | .gearbyteSentinel => Sys2Proof.Machine.execGearbyteSentinel s
  | .gearbyteOutOfRange v => Sys2Proof.Machine.execGearbyteOutOfRange v s
  | .indOff => Sys2Proof.Machine.execIndOff s
  | .indLeft => Sys2Proof.Machine.execIndLeft s
  | .indRight => Sys2Proof.Machine.execIndRight s
  | .indHazard => Sys2Proof.Machine.execIndHazard s
  | .indIgnored v => Sys2Proof.Machine.execIndIgnored v s
  | .modeNormal => Sys2Proof.Machine.execModeNormal s
  | .modeCollision => Sys2Proof.Machine.execModeCollision s
  | .keyP1Increment => Sys2Proof.Machine.execKeyP1Increment s
  | .keyP1Decrement => Sys2Proof.Machine.execKeyP1Decrement s
  | .keyP1Collision => Sys2Proof.Machine.execKeyP1Collision s
  | .keyP2Left => Sys2Proof.Machine.execKeyP2Left s
  | .keyP2Right => Sys2Proof.Machine.execKeyP2Right s
  | .keyP2Hazard => Sys2Proof.Machine.execKeyP2Hazard s
  | .keyP2Off => Sys2Proof.Machine.execKeyP2Off s
  | .keyAllReleased n => Sys2Proof.Machine.execKeyAllReleased n s

end Sys2Proof.Machine
end

