-- ==== Sys2Proof/WellFormed.lean ====
section
/-! DEFINITION. Well-formed instructions: an operand that stands for a class of values lies in its class. Everything
else is well-formed as written; an operand outside an operation's contract is refused by the operation itself
(R141, R191). -/

namespace Sys2Proof

/-- Whether an instruction is a row of the table with operands the row admits. -/
def Instr.wellFormed : Instr → Bool
  | .reserved => true
  | .keyLevel _ _ => true
  | .keyEdge _ _ => true
  | .sample _ _ => true
  | .gearStep => true
  | .indStep => true
  | .txGear => true
  | .txSpeed => true
  | .txRpm => true
  | .txInd => true
  | .canRx => true
  | .dispatch => true
  | .busDeliver _ => true
  | .timerFire => true
  | .tickIsr => true
  | .reset _ => true
  | .canTx _ _ _ _ => true
  | .frameGear => true
  | .frameSpeed => true
  | .frameRpm => true
  | .frameIndicator => true
  | .frameUnknown id => Machine.kindOf id = .unknown
  | .frameNone => true
  | .gearbyteDisplay v => Machine.gearClass v = .display
  | .gearbyteSentinel => true
  | .gearbyteOutOfRange v => Machine.gearClass v = .outOfRange
  | .indOff => true
  | .indLeft => true
  | .indRight => true
  | .indHazard => true
  | .indIgnored v => Machine.indOf v = none
  | .modeNormal => true
  | .modeCollision => true
  | .keyP1Increment => true
  | .keyP1Decrement => true
  | .keyP1Collision => true
  | .keyP2Left => true
  | .keyP2Right => true
  | .keyP2Hazard => true
  | .keyP2Off => true
  | .keyAllReleased _ => true

end Sys2Proof
end

