-- ==== Sys2Proof/Decode.lean ====
section
/-! DEFINITION. The decoder: from a step word to an instruction, total, rejecting by name; the reading of a word of
spec/opcode_table.json; the encoder. The five encoded objects of R90 are told apart by the word's format. -/

namespace Sys2Proof

/-- A producer's operation at the word's node (R111: the agents `P1.seq` and `P2.seq`). -/
def decodeAtProducer (n : Role) (f : Producer → Instr) : Except DecodeError Instr :=
  match n.producer? with
  | some p => .ok (f p)
  | none => .error .noSuchAgent

/-- The operation of a 4-bit tag (R111). An operation that one agent of one node performs runs on that node, whatever
node the word names (DESIGN CHOICE, log 26; tags `0xD` and `0xE` log 16); an operation of either producer named on `C` is
refused (log 14). -/
def decodeTag (tag : BitVec 4) (w : StepWord) : Except DecodeError Instr :=
  match tag.toNat with
  | 0x0 => .ok .reserved
  | 0x1 => decodeAtProducer w.node fun n => .keyLevel n w.keyIn
  | 0x2 => decodeAtProducer w.node fun n => .keyEdge n w.keyIn
  | 0x3 => decodeAtProducer w.node fun n => .sample n w.valIn
  | 0x4 => .ok .gearStep
  | 0x5 => .ok .indStep
  | 0x6 => .ok .txGear
  | 0x7 => .ok .txSpeed
  | 0x8 => .ok .txRpm
  | 0x9 => .ok .txInd
  | 0xA => .ok .canRx
  | 0xB => .ok .dispatch
  | 0xC => .ok (.busDeliver w.node)
  | 0xD => .ok .timerFire
  | 0xE => .ok .tickIsr
  | _ => .ok (.reset w.node)

/-- The arm of `CAN.RX` an identifier selects (R94, R161). -/
def decodeIdent (id : Ident) : Instr :=
  match Machine.kindOf id with
  | .gear => .frameGear
  | .speed => .frameSpeed
  | .rpm => .frameRpm
  | .indicator => .frameIndicator
  | .unknown => .frameUnknown id

/-- The arm a GEAR byte selects (R107). -/
def decodeGearByte (v : Byte) : Instr :=
  match Machine.gearClass v with
  | .display => .gearbyteDisplay v
  | .sentinel => .gearbyteSentinel
  | .outOfRange => .gearbyteOutOfRange v

/-- The arm an INDICATOR byte selects (R101). -/
def decodeIndByte (v : Byte) : Instr :=
  match Machine.indOf v with
  | some .off => .indOff
  | some .left => .indLeft
  | some .right => .indRight
  | some .hazard => .indHazard
  | none => .indIgnored v

/-- The row a key mask of `P1` selects (R103, R104). -/
def decodeMaskP1 (m : KeyMask) : Except DecodeError Instr :=
  if m = Config.allReleased then .ok (.keyAllReleased .p1)
  else match Machine.gearKeyOf m with
    | some .increment => .ok .keyP1Increment
    | some .decrement => .ok .keyP1Decrement
    | some .collision => .ok .keyP1Collision
    | none => .error .unmatchedMask

/-- The row a key mask of `P2` selects (R103, R105). -/
def decodeMaskP2 (m : KeyMask) : Except DecodeError Instr :=
  if m = Config.allReleased then .ok (.keyAllReleased .p2)
  else match Machine.indKeyOf m with
    | some .off => .ok .keyP2Off
    | some .left => .ok .keyP2Left
    | some .right => .ok .keyP2Right
    | some .hazard => .ok .keyP2Hazard
    | none => .error .unmatchedMask

/-- The arguments of `CAN.TX`: the kind code in bits 2 to 0, the length in bits 6 to 3 (log 2). -/
def decodePrimitive (w : StepWord) : Except DecodeError Instr :=
  match Machine.kindOfCode (w.bits.extractLsb' 0 3).toNat with
  | some k => .ok (.canTx w.node k (w.bits.extractLsb' 3 4) w.payload)
  | none => .error .badKindCode

/-- How many bits of a word its format uses. -/
def Format.width : Format → Nat
  | .op4 => 4
  | .primitive => 7
  | .frameId11 => Config.idW
  | .frameLen => 4
  | .gearByte => 8
  | .indByte => 8
  | .mode1 => 1
  | .keyMaskP1 => 0
  | .keyMaskP2 => 0

/-- The instruction of a word whose bits lie in its format's width. A row of a decode table fixes its node, and the node
the word names is not read (log 26). -/
def decodeFormat (w : StepWord) : Except DecodeError Instr :=
  match w.format with
  | .op4 => decodeTag (w.bits.setWidth 4) w
  | .primitive => decodePrimitive w
  | .frameId11 => .ok (decodeIdent (w.bits.setWidth Config.idW))
  | .frameLen => if w.bits = 0 then .ok .frameNone else .error .lengthNotZero
  | .gearByte => .ok (decodeGearByte (w.bits.setWidth 8))
  | .indByte => .ok (decodeIndByte (w.bits.setWidth 8))
  | .mode1 => .ok (if w.bits = 0 then .modeNormal else .modeCollision)
  | .keyMaskP1 => decodeMaskP1 w.keyIn
  | .keyMaskP2 => decodeMaskP2 w.keyIn

/-- The decoder: the instruction a step word names. -/
def decode (w : StepWord) : Except DecodeError Instr :=
  if w.bits.toNat < 2 ^ w.format.width then decodeFormat w else .error .strayBits

/-- A word of spec/opcode_table.json as a step word: of at most one byte an `OP4` word, of two bytes a `FRAME_ID11`
word; the node is `P1`, the ports are 0, the payload is empty (log 2). -/
def tableStepWord (nbits w : Nat) : StepWord :=
  { format := if nbits ≤ 8 then .op4 else .frameId11
    bits := BitVec.ofNat 16 w
    node := .p1
    keyIn := 0
    valIn := 0
    payload := [] }

/-- The instruction the decoder reads from a word of spec/opcode_table.json. -/
def decodeTableWord (nbits w : Nat) : Option Instr :=
  match decode (tableStepWord nbits w) with
  | .ok i => some i
  | .error _ => none

/-- A step word of a format and bits, at a node, with its ports 0 and no payload. -/
def plainWord (f : Format) (bits : BitVec 16) (n : Role) : StepWord :=
  { format := f, bits := bits, node := n, keyIn := 0, valIn := 0, payload := [] }

/-- A tagged operation's step word (R111). -/
def tagWord (tag : BitVec 4) (n : Role) : StepWord := plainWord .op4 (tag.setWidth 16) n

/-- The encoder: the step word of an instruction (R94, R96, R99, R101 to R105, R111). -/
def encode : Instr → StepWord
  | .reserved => tagWord 0x0 .p1
  | .keyLevel n m => { tagWord 0x1 n.role with keyIn := m }
  | .keyEdge n m => { tagWord 0x2 n.role with keyIn := m }
  | .sample n v => { tagWord 0x3 n.role with valIn := v }
  | .gearStep => tagWord 0x4 .p1
  | .indStep => tagWord 0x5 .p2
  | .txGear => tagWord 0x6 .p1
  | .txSpeed => tagWord 0x7 .p1
  | .txRpm => tagWord 0x8 .p2
  | .txInd => tagWord 0x9 .p2
  | .canRx => tagWord 0xA .c
  | .dispatch => tagWord 0xB .c
  | .busDeliver n => tagWord 0xC n
  | .timerFire => tagWord 0xD .c
  | .tickIsr => tagWord 0xE .c
  | .reset n => tagWord 0xF n
  | .canTx n k len p =>
    { plainWord .primitive (BitVec.ofNat 16 (Machine.kindCode k + 2 ^ 3 * len.toNat)) n with payload := p }
  | .frameGear => plainWord .frameId11 (Config.idGear.setWidth 16) .c
  | .frameSpeed => plainWord .frameId11 (Config.idSpeed.setWidth 16) .c
  | .frameRpm => plainWord .frameId11 (Config.idRpm.setWidth 16) .c
  | .frameIndicator => plainWord .frameId11 (Config.idIndicator.setWidth 16) .c
  | .frameUnknown id => plainWord .frameId11 (id.setWidth 16) .c
  | .frameNone => plainWord .frameLen 0 .c
  | .gearbyteDisplay v => plainWord .gearByte (v.setWidth 16) .c
  | .gearbyteSentinel => plainWord .gearByte (BitVec.ofNat 16 Config.sentinel) .c
  | .gearbyteOutOfRange v => plainWord .gearByte (v.setWidth 16) .c
  | .indOff => plainWord .indByte ((Machine.indByte .off).setWidth 16) .c
  | .indLeft => plainWord .indByte ((Machine.indByte .left).setWidth 16) .c
  | .indRight => plainWord .indByte ((Machine.indByte .right).setWidth 16) .c
  | .indHazard => plainWord .indByte ((Machine.indByte .hazard).setWidth 16) .c
  | .indIgnored v => plainWord .indByte (v.setWidth 16) .c
  | .modeNormal => plainWord .mode1 0 .c
  | .modeCollision => plainWord .mode1 1 .c
  | .keyP1Increment => { plainWord .keyMaskP1 0 .p1 with keyIn := Config.kInc }
  | .keyP1Decrement => { plainWord .keyMaskP1 0 .p1 with keyIn := Config.kDec }
  | .keyP1Collision => { plainWord .keyMaskP1 0 .p1 with keyIn := Config.kCol }
  | .keyP2Left => { plainWord .keyMaskP2 0 .p2 with keyIn := Config.kLeft }
  | .keyP2Right => { plainWord .keyMaskP2 0 .p2 with keyIn := Config.kRight }
  | .keyP2Hazard => { plainWord .keyMaskP2 0 .p2 with keyIn := Config.kHaz }
  | .keyP2Off => { plainWord .keyMaskP2 0 .p2 with keyIn := Config.kOff }
  | .keyAllReleased .p1 => plainWord .keyMaskP1 0 .p1
  | .keyAllReleased .p2 => plainWord .keyMaskP2 0 .p2

end Sys2Proof
end

