-- ==== Sys2Proof/Machine/Fetch.lean ====
section
/-! DEFINITION. Which agent steps next and what its step word is (20_memory.md R73, R80, R81; 30_encoding.md R120 to
R124). The scripted words come first; when there is none the free schedule picks an enabled agent (log 3). -/

namespace Sys2Proof.Machine

/-- The agents (R73, R81): the sequencers, the bus for a sender, the timer, the tick interrupt handler, and the
environment's reset of a node. -/
inductive Agent where
  | seq (n : Role)
  | bus (src : Role)
  | timer
  | isr
  | env (n : Role)
deriving DecidableEq, Repr

/-- The agents that can take the next step (R81). -/
def enabledAgents (s : State) : List Agent :=
  [.seq .p1, .seq .p2, .seq .c, .timer, .env .p1, .env .p2, .env .c]
    ++ (if s.p1.tx.req then [.bus .p1] else [])
    ++ (if s.p2.tx.req then [.bus .p2] else [])
    ++ (if s.c.tx.req then [.bus .c] else [])
    ++ (if s.c.tickIf then [.isr] else [])

/-- The agent the free schedule picks at this turn: any enabled one (R81). -/
def scheduledAgent (s : State) : Agent :=
  (enabledAgents s).getD (Config.schedule s.turn % (enabledAgents s).length) (.seq .p1)

/-- The tag a node's sequencer holds at its phase (R120); no operation, tag `0x0`, beyond the list's end. -/
def sequencerTag (s : State) (n : Role) : BitVec 4 := (sequencer n).getD (s.phase n).toNat 0

/-- The draw of `n.val_in` at this turn: any value within the contract of the node (R40, R80). -/
def drawnValue (s : State) (n : Role) : NumValue :=
  match n.producer? with
  | some p => BitVec.ofNat 17 ((Config.valIn s.turn).toNat % (valMax p + 1))
  | none => 0

/-- An agent's step word at this turn (R80, R120). -/
def agentWord (s : State) : Agent → StepWord
  | .seq n => { tagWord (sequencerTag s n) n with keyIn := Config.keyIn s.turn, valIn := drawnValue s n }
  | .bus src => tagWord 0xC src
  | .timer => tagWord 0xD .c
  | .isr => tagWord 0xE .c
  | .env n => tagWord 0xF n

/-- The next step word, and the state the step starts from: the first scripted word leaves the script, or the free
schedule takes a turn. -/
def fetch (s : State) : StepWord × State :=
  match s.feed with
  | w :: rest => (w, { s with feed := rest })
  | [] => (agentWord s (scheduledAgent s), { s with turn := s.turn + 1 })

end Sys2Proof.Machine
end

