-- ==== Sys2Proof/Machine/Step.lean ====
section
/-! DEFINITION. One step: fetch a step word, decode it, run the instruction. -/

namespace Sys2Proof.Machine

/-- One step of one agent (R73). -/
def step (s : State) : Host.Outcome State Fault Refusal :=
  match decode (fetch s).1 with
  | .ok i => exec i (fetch s).2
  | .error e => .refused (.undecodable e)

/-- The state whose next step runs a word of spec/opcode_table.json: the word is scripted first. -/
def State.withFetchWord (s : State) (nbits w : Nat) : State :=
  { s with feed := tableStepWord nbits w :: s.feed }

end Sys2Proof.Machine
end

