-- ==== Sys2Proof/Safety.lean ====
section
/-! DEFINITION. What a safe run is: the invariants on reachable state of R43, and outcomes that are no fault. -/

namespace Sys2Proof.Machine

/-- Exactly the first `n` payload bytes of a slot hold a value (R61). -/
def SlotHolds (m : Memory) (sl : Slot) (n : Nat) : Prop :=
  ∀ i, i < Config.lenMax → ((readByte m (slotBase sl + i)).isSome ↔ i < n)

/-- A frame that one of the four kinds of `CAN.TX` could have staged whole: one of the four identifiers, a length in
1 to 8, and as many payload bytes (R43, R91). -/
structure WholeFrame (m : Memory) (sl : Slot) (id : Ident) (len : Len) : Prop where
  knownKind : kindOf id ≠ .unknown
  lenPos : 0 < len.toNat
  lenMax : len.toNat ≤ Config.lenMax
  bytes : SlotHolds m sl len.toNat

/-- The invariants on reachable state (R43, R29, R40), and the canonical form of the payload memory. -/
structure State.Inv (s : State) : Prop where
  memWf : s.mem.wf = true
  gearRange : s.gear.toNat ≤ Config.sentinel
  tickRange : s.c.tick.toNat < Config.tickMod
  phaseRange : ∀ n, (s.phase n).toNat < cycleLen n
  valueRange : ∀ n, (s.prod n).num.toNat ≤ valMax n
  staged : ∀ n, (s.tx n).req = true → WholeFrame s.mem (txSlot n) (s.tx n).id (s.tx n).len
  received : ∀ n, (s.rx n).full = true → WholeFrame s.mem (rxSlot n) (s.rx n).id (s.rx n).len
  message : s.c.msg.len ≠ 0 →
    s.c.msg.kind ≠ .unknown ∧ s.c.msg.len.toNat ≤ Config.lenMax ∧ SlotHolds s.mem .cmsg s.c.msg.len.toNat

/-- A slot's bytes after a write of a list: byte `i` of the slot is element `i`, the slot's other bytes hold no value,
and every other address reads as before (R62). -/
def SlotWritten (m m' : Memory) (sl : Slot) (bytes : List Byte) : Prop :=
  ∀ a, readByte m' a = if inSlot sl a then bytes[a - slotBase sl]? else readByte m a

/-- The slots of a node (R20). -/
def nodeSlots : Role → List Slot
  | .p1 => [.p1tx, .p1rx]
  | .p2 => [.p2tx, .p2rx]
  | .c => [.ctx, .crx, .cmsg]

/-- Whether an address is a payload byte of a node. -/
def inNode (n : Role) (a : Nat) : Bool := (nodeSlots n).any fun sl => inSlot sl a

/-- The node whose state an instruction acts on (R20, R111, R301); a delivery acts between nodes, the reserved tag on
none. -/
def instrNode : Instr → Option Role
  | .reserved => none
  | .keyLevel n _ => some n.role
  | .keyEdge n _ => some n.role
  | .sample n _ => some n.role
  | .gearStep => some .p1
  | .indStep => some .p2
  | .txGear => some .p1
  | .txSpeed => some .p1
  | .txRpm => some .p2
  | .txInd => some .p2
  | .canRx => some .c
  | .dispatch => some .c
  | .busDeliver _ => none
  | .timerFire => some .c
  | .tickIsr => some .c
  | .reset n => some n
  | .canTx n _ _ _ => some n
  | .frameGear => some .c
  | .frameSpeed => some .c
  | .frameRpm => some .c
  | .frameIndicator => some .c
  | .frameUnknown _ => some .c
  | .frameNone => some .c
  | .gearbyteDisplay _ => some .c
  | .gearbyteSentinel => some .c
  | .gearbyteOutOfRange _ => some .c
  | .indOff => some .c
  | .indLeft => some .c
  | .indRight => some .c
  | .indHazard => some .c
  | .indIgnored _ => some .c
  | .modeNormal => some .c
  | .modeCollision => some .c
  | .keyP1Increment => some .p1
  | .keyP1Decrement => some .p1
  | .keyP1Collision => some .p1
  | .keyP2Left => some .p2
  | .keyP2Right => some .p2
  | .keyP2Hazard => some .p2
  | .keyP2Off => some .p2
  | .keyAllReleased n => some n.role

/-- Whether an instruction is inside the contract the spec gives it in a state: the reserved tag names no operation
(R112), a sample lies in its node's range (R191), a transmission is one of R141, a delivery or the tick interrupt is
enabled (R143, R268). -/
def InContract (s : State) : Instr → Prop
  | .reserved => False
  | .sample n v => v.toNat ≤ valMax n
  | .canTx _ k len payload =>
    k ≠ .unknown ∧ len.toNat ≠ 0 ∧ len.toNat ≤ Config.lenMax ∧ payload.length = len.toNat
  | .busDeliver src => (s.tx src).req = true
  | .tickIsr => s.c.tickIf = true
  | .keyLevel _ _ => True
  | .keyEdge _ _ => True
  | .gearStep => True
  | .indStep => True
  | .txGear => True
  | .txSpeed => True
  | .txRpm => True
  | .txInd => True
  | .canRx => True
  | .dispatch => True
  | .timerFire => True
  | .reset _ => True
  | .frameGear => True
  | .frameSpeed => True
  | .frameRpm => True
  | .frameIndicator => True
  | .frameUnknown _ => True
  | .frameNone => True
  | .gearbyteDisplay _ => True
  | .gearbyteSentinel => True
  | .gearbyteOutOfRange _ => True
  | .indOff => True
  | .indLeft => True
  | .indRight => True
  | .indHazard => True
  | .indIgnored _ => True
  | .modeNormal => True
  | .modeCollision => True
  | .keyP1Increment => True
  | .keyP1Decrement => True
  | .keyP1Collision => True
  | .keyP2Left => True
  | .keyP2Right => True
  | .keyP2Hazard => True
  | .keyP2Off => True
  | .keyAllReleased _ => True

/-- `TICKS k` (R131): `k` times `TIMER.FIRE` and then `TICK.ISR`. -/
def ticks : Nat → State → Result
  | 0, s => .next s
  | k + 1, s =>
    match exec .timerFire s with
    | .next t =>
      match exec .tickIsr t with
      | .next u => ticks k u
      | .fault f => .fault f
      | .refused r => .refused r
    | .fault f => .fault f
    | .refused r => .refused r

/-- The instructions of a list, one after another. -/
def execAll : List Instr → State → Result
  | [], s => .next s
  | i :: is, s =>
    match exec i s with
    | .next t => execAll is t
    | .fault f => .fault f
    | .refused r => .refused r

/-- `CAN.RX` and its arms: the instructions that read the receive slot of `C` (R22, R142). -/
def isPoll (i : Instr) : Prop :=
  i = .canRx ∨ i = .frameGear ∨ i = .frameSpeed ∨ i = .frameRpm ∨ i = .frameIndicator ∨
    (∃ id, i = .frameUnknown id) ∨ i = .frameNone

/-- The key events that successive STATE_CHANGE reads of a list of masks report (R184). -/
def edgeEvents (n : Producer) : List KeyMask → State → List KeyEvent
  | [], _ => []
  | m :: ms, s =>
    match exec (.keyEdge n m) s with
    | .next t => (t.prod n).kev :: edgeEvents n ms t
    | .fault _ => []
    | .refused _ => []

/-- The registers of a state, less the receive slots of `P1` and `P2`, and no payload byte. -/
def State.withoutProducerRx (s : State) : State :=
  ((s.setRx .p1 RxSlot.reset).setRx .p2 RxSlot.reset).setMem []

/-- Two states that differ at most in the receive slots of `P1` and `P2`, registers and payload bytes (R22, R147). -/
structure SameButProducerRx (s t : State) : Prop where
  registers : s.withoutProducerRx = t.withoutProducerRx
  bytes : ∀ a, inSlot .p1rx a = false → inSlot .p2rx a = false → readByte s.mem a = readByte t.mem a

/-- Two outcomes of the same sort: next states that a relation holds of, or the same fault or refusal. -/
def SameOutcome (R : State → State → Prop) : Result → Result → Prop
  | .next s, .next t => R s t
  | .fault f, .fault g => f = g
  | .refused r, .refused q => r = q
  | _, _ => False

/-- An outcome that is no fault. -/
def NoFault : Result → Prop
  | .next _ => True
  | .fault _ => False
  | .refused _ => True

end Sys2Proof.Machine
end

