-- ==== Sys2Proof/Certificates/Slice0/Obligations.lean ====
section
/-! DEFINITION. The statements for the provers. Each docstring names the rules of spec/ it formalises; where a clause
rests on a decision of the spec or on a choice of the model, it says so. -/

open Sys2Proof Sys2Proof.Machine

/-! ### Encoding -/

/-- R90, R94, R101 to R105, R111: every well-formed instruction is read back from its step word, with every operand.
The step word around the table's bits is the model's (log 2). -/
def Obligations.DecodeOfEncodeIsTheInstruction : Prop :=
  ∀ i : Instr, i.wellFormed = true → decode (encode i) = .ok i

/-- The decoder answers well-formed instructions only, and a row's word is its only word: an instruction that was
decoded has the format and the bits it was decoded from, and a row of a key map the mask on the word's key port, where
the mask stands (R94, R101 to R105, R107, R111; log 2). -/
def Obligations.DecodedBitsAreTheRowsBits : Prop :=
  ∀ (w : StepWord) (i : Instr), decode w = .ok i →
    i.wellFormed = true ∧ (encode i).format = w.format ∧ (encode i).bits = w.bits ∧
    (w.format = .keyMaskP1 ∨ w.format = .keyMaskP2 → (encode i).keyIn = w.keyIn)

/-- The tags of R111, each written out, with any values on the ports. -/
def Obligations.OperationTagsDecodeAsListed : Prop :=
  ∀ (k : KeyMask) (v : NumValue) (p : List Byte),
    decode ⟨.op4, 0x0, .p1, k, v, p⟩ = .ok .reserved ∧
    decode ⟨.op4, 0x1, .p1, k, v, p⟩ = .ok (.keyLevel .p1 k) ∧
    decode ⟨.op4, 0x2, .p2, k, v, p⟩ = .ok (.keyEdge .p2 k) ∧
    decode ⟨.op4, 0x3, .p1, k, v, p⟩ = .ok (.sample .p1 v) ∧
    decode ⟨.op4, 0x4, .p1, k, v, p⟩ = .ok .gearStep ∧
    decode ⟨.op4, 0x5, .p2, k, v, p⟩ = .ok .indStep ∧
    decode ⟨.op4, 0x6, .p1, k, v, p⟩ = .ok .txGear ∧
    decode ⟨.op4, 0x7, .p1, k, v, p⟩ = .ok .txSpeed ∧
    decode ⟨.op4, 0x8, .p2, k, v, p⟩ = .ok .txRpm ∧
    decode ⟨.op4, 0x9, .p2, k, v, p⟩ = .ok .txInd ∧
    decode ⟨.op4, 0xA, .c, k, v, p⟩ = .ok .canRx ∧
    decode ⟨.op4, 0xB, .c, k, v, p⟩ = .ok .dispatch ∧
    decode ⟨.op4, 0xC, .p2, k, v, p⟩ = .ok (.busDeliver .p2) ∧
    decode ⟨.op4, 0xD, .c, k, v, p⟩ = .ok .timerFire ∧
    decode ⟨.op4, 0xE, .c, k, v, p⟩ = .ok .tickIsr ∧
    decode ⟨.op4, 0xF, .c, k, v, p⟩ = .ok (.reset .c)

/-- R160, R161: `KIND_OF` inverts `ID_OF` on the four kinds, `ID_OF` is injective, and `KIND_OF` is UNKNOWN exactly off
the four identifiers. -/
def Obligations.KindOfInvertsIdOf : Prop :=
  (∀ k i, idOf k = some i → kindOf i = k) ∧
  (∀ k k' i, idOf k = some i → idOf k' = some i → k = k') ∧
  (∀ i, kindOf i = .unknown ↔ ∀ k, idOf k ≠ some i)

/-! ### The step -/

/-- A step runs the decoded instruction: with a scripted word first in the script, the word leaves the script and the
instruction it decodes to is executed on the rest of the state (log 3); a word that is no row of any table stops the
step by name (log 14). -/
def Obligations.StepRunsTheScriptedInstruction : Prop :=
  ∀ (s : State) (w : StepWord) (rest : List StepWord), s.feed = w :: rest →
    (∀ i, decode w = .ok i → step s = exec i { s with feed := rest }) ∧
    (∀ e, decode w = .error e → step s = .refused (.undecodable e))

/-- R81: with no script, the step is one of an enabled agent: a delivery only of a node with a pending request, the
interrupt handler only with a pending tick; the timer and the resets whenever they are picked; a sequencer's step is
the operation of its word, on that node, or the reserved tag, the latter only at a phase beyond the end of the node's
list (log 19: the model's choice). The turn advances. -/
def Obligations.ScheduledStepIsOfAnEnabledAgent : Prop :=
  ∀ s : State, s.feed = [] →
    match scheduledAgent s with
    | .bus src => (s.tx src).req = true ∧ step s = exec (.busDeliver src) { s with turn := s.turn + 1 }
    | .isr => s.c.tickIf = true ∧ step s = exec .tickIsr { s with turn := s.turn + 1 }
    | .timer => step s = exec .timerFire { s with turn := s.turn + 1 }
    | .env n => step s = exec (.reset n) { s with turn := s.turn + 1 }
    | .seq n => ∃ i, decode (agentWord s (.seq n)) = .ok i ∧
        ((i = .reserved ∧ cycleLen n ≤ (s.phase n).toNat) ∨ instrNode i = some n) ∧
        step s = exec i { s with turn := s.turn + 1 }

/-- R121, R122, R123 (their order is decision D3): a sequencer's step word is the operation its list holds at its
phase, on the environment's draws of this turn; the sampled value drawn is within the node's contract (R40); beyond
the list's end it is the reserved tag (log 19). -/
def Obligations.SequencersPerformTheirLists : Prop :=
  ∀ s : State,
    (s.p1.phase = 0 → decode (agentWord s (.seq .p1)) = .ok (.keyEdge .p1 (Config.keyIn s.turn))) ∧
    (s.p1.phase = 1 → ∃ v : NumValue, v.toNat ≤ 999 ∧ decode (agentWord s (.seq .p1)) = .ok (.sample .p1 v)) ∧
    (s.p1.phase = 2 → decode (agentWord s (.seq .p1)) = .ok .gearStep) ∧
    (s.p1.phase = 3 → decode (agentWord s (.seq .p1)) = .ok .txGear) ∧
    (s.p1.phase = 4 → decode (agentWord s (.seq .p1)) = .ok .txSpeed) ∧
    (4 < s.p1.phase.toNat → decode (agentWord s (.seq .p1)) = .ok .reserved) ∧
    (s.p2.phase = 0 → decode (agentWord s (.seq .p2)) = .ok (.keyEdge .p2 (Config.keyIn s.turn))) ∧
    (s.p2.phase = 1 → ∃ v : NumValue, v.toNat ≤ 99999 ∧ decode (agentWord s (.seq .p2)) = .ok (.sample .p2 v)) ∧
    (s.p2.phase = 2 → decode (agentWord s (.seq .p2)) = .ok .indStep) ∧
    (s.p2.phase = 3 → decode (agentWord s (.seq .p2)) = .ok .txRpm) ∧
    (s.p2.phase = 4 → decode (agentWord s (.seq .p2)) = .ok .txInd) ∧
    (4 < s.p2.phase.toNat → decode (agentWord s (.seq .p2)) = .ok .reserved) ∧
    (s.c.phase = 0 → decode (agentWord s (.seq .c)) = .ok .canRx) ∧
    (s.c.phase = 1 → decode (agentWord s (.seq .c)) = .ok .dispatch) ∧
    (1 < s.c.phase.toNat → decode (agentWord s (.seq .c)) = .ok .reserved)

/-! ### Reachable states -/

/-- R43, R45, R312: the state right after reset meets the invariants. That `NUM` is at most the node's maximum there
rests on log 9, which gives the unspecified `NUM` the value 0. -/
def Obligations.ResetMeetsTheInvariants : Prop := State.reset.Inv

/-- R43: every step keeps the invariants: the gear in 0 to 8, the tick below `TICK_MOD`, each phase in its cycle, a
staged or unread frame whole and of one of the four kinds, and the payload memory canonical. Two parts are not R43's:
the sampled value within the node's maximum (R40, R191) and the memory's form (log 11). -/
def Obligations.StepKeepsTheInvariants : Prop :=
  ∀ s t : State, s.Inv → step s = .next t → t.Inv

/-- R280: from a state that meets the invariants no step faults. -/
def Obligations.InvariantsRuleOutFaults : Prop :=
  ∀ s : State, s.Inv → NoFault (step s)

/-- R331: no agent is ever stuck: without a script, every step from a state that meets the invariants answers a next
state, which meets them again and is again without a script. -/
def Obligations.FreeRunNeverStops : Prop :=
  ∀ s : State, s.Inv → s.feed = [] → ∃ t, step s = .next t ∧ t.Inv ∧ t.feed = []

/-- Every instruction but the reserved tag completes, inside the contract the spec gives it, from every state that meets
the invariants (R112, R141, R143, R191, R268, R280). -/
def Obligations.InstructionsInContractComplete : Prop :=
  ∀ (i : Instr) (s : State), s.Inv → InContract s i → ∃ t, exec i s = .next t ∧ t.Inv

/-- R112: tag `0x0` names no operation. -/
def Obligations.ReservedTagIsRefused : Prop :=
  ∀ s : State, exec .reserved s = .refused .reservedTag

/-! ### Keys -/

/-- R181: `KEY.LEVEL` reports the mask verbatim; nothing else changes. -/
def Obligations.KeyLevelReportsTheMaskVerbatim : Prop :=
  ∀ (n : Producer) (m : KeyMask) (s : State),
    exec (.keyLevel n m) s = .next (s.setProd n { s.prod n with kev := ⟨true, m⟩ })

/-- R182: `KEY.EDGE`'s three cases, its phase, and that it changes nothing else; where it reports no event the mask is
free (log 12). -/
def Obligations.KeyEdgeFollowsItsTruthTable : Prop :=
  ∀ (n : Producer) (m : KeyMask) (s : State), ∃ (kev : KeyEvent) (f : Nat),
    exec (.keyEdge n m) s = .next
      { s.setProd n { s.prod n with
          armed := decide (m = Config.allReleased)
          kev := kev
          phase := BitVec.ofNat 3 (((s.prod n).phase.toNat + 1) % 5) } with free := f } ∧
    (m = Config.allReleased → kev.valid = false) ∧
    (m ≠ Config.allReleased → (s.prod n).armed = true → kev = ⟨true, m⟩) ∧
    (m ≠ Config.allReleased → (s.prod n).armed = false → kev.valid = false)

/-- R103, R182: the row `KEY.ALL_RELEASED` is the arm of `KEY.EDGE` that re-arms and reports no event (log 1); it moves
no phase. -/
def Obligations.AllReleasedArmRearms : Prop :=
  ∀ (n : Producer) (s : State), ∃ (mask : KeyMask) (f : Nat),
    exec (.keyAllReleased n) s = .next
      { s.setProd n { s.prod n with armed := true, kev := ⟨false, mask⟩ } with free := f }

/-- R184, R185: over successive reads, a read reports an event exactly if its mask is not `ALL_RELEASED` and the read
before it was (for the first read: the latch is armed), and the event carries that read's mask. -/
def Obligations.OneKeyEventPerPressedRun : Prop :=
  ∀ (n : Producer) (ms : List KeyMask) (s : State),
    (edgeEvents n ms s).length = ms.length ∧
    ∀ (j : Nat) (m : KeyMask) (kev : KeyEvent), ms[j]? = some m → (edgeEvents n ms s)[j]? = some kev →
      (kev.valid = true ↔
        m ≠ Config.allReleased ∧
          (if j = 0 then (s.prod n).armed = true else ms[j - 1]? = some Config.allReleased)) ∧
      (kev.valid = true → kev.mask = m)

/-! ### Producers -/

/-- R191: `SAMPLE` latches a value within the node's range and refuses one above it (decision D14). -/
def Obligations.SampleLatchesOrRefuses : Prop :=
  ∀ (n : Producer) (v : NumValue) (s : State),
    exec (.sample n v) s =
      if v.toNat ≤ (match n with | .p1 => 999 | .p2 => 99999) then
        .next (s.setProd n { s.prod n with
          num := v
          phase := BitVec.ofNat 3 (((s.prod n).phase.toNat + 1) % 5) })
      else .refused .valueOutOfRange

/-- R192: `GEAR.STEP` on every event and gear; without an event, or with a mask that is none of the three keys, only
the phase moves. INCREMENT at 8 changes nothing (decision D17, conflict C2). -/
def Obligations.GearStepAppliesTheKeyEvent : Prop :=
  ∀ s : State, ∃ g : Gear,
    exec .gearStep s = .next
      { s with gear := g, p1 := { s.p1 with phase := BitVec.ofNat 3 ((s.p1.phase.toNat + 1) % 5) } } ∧
    (s.p1.kev.valid = false → g = s.gear) ∧
    (s.p1.kev = ⟨true, Config.kInc⟩ → g = if s.gear.toNat < 7 then s.gear + 1 else s.gear) ∧
    (s.p1.kev = ⟨true, Config.kDec⟩ →
      g = if s.gear = 8 then 1 else if 1 < s.gear.toNat then s.gear - 1 else s.gear) ∧
    (s.p1.kev = ⟨true, Config.kCol⟩ → g = 8) ∧
    (s.p1.kev.mask ≠ Config.kInc → s.p1.kev.mask ≠ Config.kDec → s.p1.kev.mask ≠ Config.kCol → g = s.gear)

/-- R104, R105, R192, R195: what each row of the key maps does alone (log 1): the gear or the indicator moves only for
the row's own key, and nothing else changes. -/
def Obligations.KeyRowsActOnTheirOwnMask : Prop :=
  ∀ s : State,
    exec .keyP1Increment s = .next
      { s with gear := if s.p1.kev = ⟨true, Config.kInc⟩ ∧ s.gear.toNat < 7 then s.gear + 1 else s.gear } ∧
    exec .keyP1Decrement s = .next
      { s with gear := if s.p1.kev = ⟨true, Config.kDec⟩ then
          (if s.gear = 8 then 1 else if 1 < s.gear.toNat then s.gear - 1 else s.gear) else s.gear } ∧
    exec .keyP1Collision s = .next
      { s with gear := if s.p1.kev = ⟨true, Config.kCol⟩ then 8 else s.gear } ∧
    exec .keyP2Off s = .next { s with ind := if s.p2.kev = ⟨true, Config.kOff⟩ then .off else s.ind } ∧
    exec .keyP2Left s = .next { s with ind := if s.p2.kev = ⟨true, Config.kLeft⟩ then .left else s.ind } ∧
    exec .keyP2Right s = .next { s with ind := if s.p2.kev = ⟨true, Config.kRight⟩ then .right else s.ind } ∧
    exec .keyP2Hazard s = .next { s with ind := if s.p2.kev = ⟨true, Config.kHaz⟩ then .hazard else s.ind }

/-- R194: the sentinel is entered from another gear only by the COLLISION key's event; over every instruction, for
gears in 0 to 8. -/
def Obligations.OnlyTheCollisionKeySetsTheSentinel : Prop :=
  ∀ (i : Instr) (s t : State), exec i s = .next t → s.gear.toNat < 8 → t.gear.toNat = 8 →
    s.p1.kev = ⟨true, Config.kCol⟩ ∧ (i = .gearStep ∨ i = .keyP1Collision)

/-- R195: `IND.STEP` on every event, whatever the old state; without an event, or with a mask that is none of the four
keys, only the phase moves. -/
def Obligations.IndStepAppliesTheKeyEvent : Prop :=
  ∀ s : State, ∃ i : Ind,
    exec .indStep s = .next
      { s with ind := i, p2 := { s.p2 with phase := BitVec.ofNat 3 ((s.p2.phase.toNat + 1) % 5) } } ∧
    (s.p2.kev.valid = false → i = s.ind) ∧
    (s.p2.kev = ⟨true, Config.kOff⟩ → i = .off) ∧
    (s.p2.kev = ⟨true, Config.kLeft⟩ → i = .left) ∧
    (s.p2.kev = ⟨true, Config.kRight⟩ → i = .right) ∧
    (s.p2.kev = ⟨true, Config.kHaz⟩ → i = .hazard) ∧
    (s.p2.kev.mask ≠ Config.kOff → s.p2.kev.mask ≠ Config.kLeft → s.p2.kev.mask ≠ Config.kRight →
      s.p2.kev.mask ≠ Config.kHaz → i = s.ind)

/-- R197: `TX.GEAR` stages the gear's byte whole, whatever was staged before, and changes nothing else. -/
def Obligations.TxGearStagesTheGearFrame : Prop :=
  ∀ s : State, ∃ m : Memory,
    SlotWritten s.mem m .p1tx [s.gear.setWidth 8] ∧
    exec .txGear s = .next
      { s with
          p1 := { s.p1 with
            tx := ⟨Config.idGear, 1, true⟩
            phase := BitVec.ofNat 3 ((s.p1.phase.toNat + 1) % 5) }
          mem := m }

/-- R198: `TX.SPEED` stages the decimal digits of the sampled speed, one to three bytes, and changes nothing else. -/
def Obligations.TxSpeedStagesTheSpeedDigits : Prop :=
  ∀ s : State, s.p1.num.toNat ≤ 999 → ∃ (m : Memory) (payload : List Byte) (len : Len),
    payload = encNum s.p1.num.toNat ∧ len.toNat = payload.length ∧ 1 ≤ len.toNat ∧ len.toNat ≤ 3 ∧
    SlotWritten s.mem m .p1tx payload ∧
    exec .txSpeed s = .next
      { s with
          p1 := { s.p1 with
            tx := ⟨Config.idSpeed, len, true⟩
            phase := BitVec.ofNat 3 ((s.p1.phase.toNat + 1) % 5) }
          mem := m }

/-- R199: `TX.RPM` stages the decimal digits of the sampled RPM value, one to five bytes, and changes nothing else. -/
def Obligations.TxRpmStagesTheRpmDigits : Prop :=
  ∀ s : State, s.p2.num.toNat ≤ 99999 → ∃ (m : Memory) (payload : List Byte) (len : Len),
    payload = encNum s.p2.num.toNat ∧ len.toNat = payload.length ∧ 1 ≤ len.toNat ∧ len.toNat ≤ 5 ∧
    SlotWritten s.mem m .p2tx payload ∧
    exec .txRpm s = .next
      { s with
          p2 := { s.p2 with
            tx := ⟨Config.idRpm, len, true⟩
            phase := BitVec.ofNat 3 ((s.p2.phase.toNat + 1) % 5) }
          mem := m }

/-- R200: `TX.IND` stages the indicator state's byte whole, and changes nothing else. -/
def Obligations.TxIndStagesTheIndicatorFrame : Prop :=
  ∀ s : State, ∃ m : Memory,
    SlotWritten s.mem m .p2tx
      [match s.ind with | .off => 0 | .left => 1 | .right => 2 | .hazard => 3] ∧
    exec .txInd s = .next
      { s with
          p2 := { s.p2 with
            tx := ⟨Config.idIndicator, 1, true⟩
            phase := BitVec.ofNat 3 ((s.p2.phase.toNat + 1) % 5) }
          mem := m }

/-! ### Codec -/

/-- R164, R165: the digits of a positive number: as many as the least power of ten above it, most significant first,
none of them leading zeros; zero is `"00"`. The digit order is log 22's (DEDUCED, the reading of R66), the character
code of a digit log 23's (PRESUMED). -/
def Obligations.EncNumGivesTheDecimalDigits : Prop :=
  encNum 0 = [0x30, 0x30] ∧
  ∀ v k : Nat, 0 < v → v < 10 ^ k → (∀ k', k' < k → 10 ^ k' ≤ v) →
    (encNum v).length = k ∧
    ∀ j, j < k → (encNum v)[j]? = some (BitVec.ofNat 8 (0x30 + v / 10 ^ (k - 1 - j) % 10))

/-- R168: `DEC_NUM` inverts `ENC_NUM` on every natural number, so `ENC_NUM` is injective. -/
def Obligations.DecNumInvertsEncNum : Prop :=
  (∀ v : Nat, decNum (encNum v) = some v) ∧ ∀ v w : Nat, encNum v = encNum w → v = w

/-! ### Transport -/

/-- R62: `MemWrite` of at most eight bytes gives the slot those bytes and no others, and leaves every other slot
alone; `MemRead` of as many of them, or fewer, gives them back in order. -/
def Obligations.MemReadAfterMemWrite : Prop :=
  ∀ (m : Memory) (sl : Slot) (bytes : List Byte), bytes.length ≤ 8 →
    SlotWritten m (memWrite sl bytes m) sl bytes ∧
    ∀ n, n ≤ bytes.length → memRead sl n (memWrite sl bytes m) = .ok (bytes.take n)

/-- R141: `CAN.TX` on any node: with one of the four kinds, a length in 1 to 8 and a payload of that size the frame is
staged whole and the request raised, whether or not one was pending; anything else is refused (decision D10). -/
def Obligations.CanTxStagesOrRefuses : Prop :=
  ∀ (n : Role) (k : Kind) (len : Len) (payload : List Byte) (s : State),
    (∀ id, idOf k = some id → 1 ≤ len.toNat → len.toNat ≤ 8 → payload.length = len.toNat →
      ∃ m : Memory, SlotWritten s.mem m (txSlot n) payload ∧
        exec (.canTx n k len payload) s = .next ((s.setTx n ⟨id, len, true⟩).setMem m)) ∧
    (k = .unknown ∨ len = 0 ∨ 8 < len.toNat ∨ payload.length ≠ len.toNat →
      exec (.canTx n k len payload) s = .refused .badTransmit)

/-- R144: staging a frame and then another on the same node leaves exactly what staging the second alone leaves. -/
def Obligations.SecondStagingLeavesNothingOfTheFirst : Prop :=
  ∀ (n : Role) (k k' : Kind) (len len' : Len) (p p' : List Byte) (s t : State),
    exec (.canTx n k len p) s = .next t → exec (.canTx n k' len' p') t = exec (.canTx n k' len' p') s

/-- R143: `BUS.DELIVER` of a node with no pending request is not enabled; with one, and a staged frame whose bytes are
there, every other node's receive slot takes the whole frame and its flag, the request is done, and nothing else
changes: not the sender's receive slot, not its staged bytes. Its reach and atomicity are decision D11. -/
def Obligations.BusDeliverCopiesTheWholeFrame : Prop :=
  ∀ (src : Role) (s : State),
    ((s.tx src).req = false → exec (.busDeliver src) s = .refused .notEnabled) ∧
    ∀ bytes : List Byte, (s.tx src).req = true → memRead (txSlot src) (s.tx src).len.toNat s.mem = .ok bytes →
      ∃ t : State, exec (.busDeliver src) s = .next t ∧
        (∀ r, r ≠ src → t.rx r = ⟨(s.tx src).id, (s.tx src).len, true⟩) ∧
        t.rx src = s.rx src ∧
        t.tx src = { s.tx src with req := false } ∧
        (∀ r, r ≠ src → t.tx r = s.tx r) ∧
        (∀ r, r ≠ src → ∀ j, j < 8 → readByte t.mem (slotBase (rxSlot r) + j) = bytes[j]?) ∧
        (∀ a, (∀ r, r ≠ src → inSlot (rxSlot r) a = false) → readByte t.mem a = readByte s.mem a) ∧
        t = { s with
          p1 := { s.p1 with tx := t.p1.tx, rx := t.p1.rx }
          p2 := { s.p2 with tx := t.p2.tx, rx := t.p2.rx }
          c := { s.c with tx := t.c.tx, rx := t.c.rx }
          mem := t.mem }

/-- R142: `CAN.RX` with an unread frame whose bytes are there takes its kind, length and payload and frees the slot;
with none it reports length 0 ("no message"; the kind is then free, log 12, and no byte of `MSG` holds a value). The
phase moves and nothing else changes. A frame of a foreign identifier is of kind UNKNOWN (decision D8); one of length 0,
which no run reaches, is taken like any other and so reads as "no message" (decision D9; its kind and its bytes are
log 21's). -/
def Obligations.CanRxTakesTheFrameOrReportsNone : Prop :=
  ∀ s : State,
    (∀ bytes : List Byte, s.c.rx.full = true → memRead .crx s.c.rx.len.toNat s.mem = .ok bytes →
      ∃ m : Memory, SlotWritten s.mem m .cmsg bytes ∧
        exec .canRx s = .next
          { s with
              c := { s.c with
                msg := ⟨kindOf s.c.rx.id, s.c.rx.len⟩
                rx := ⟨s.c.rx.id, s.c.rx.len, false⟩
                phase := BitVec.ofNat 3 ((s.c.phase.toNat + 1) % 2) }
              mem := m }) ∧
    (s.c.rx.full = false →
      ∃ (m : Memory) (k : Kind) (f : Nat), SlotWritten s.mem m .cmsg [] ∧
        exec .canRx s = .next
          { s with
              c := { s.c with
                msg := ⟨k, 0⟩
                phase := BitVec.ofNat 3 ((s.c.phase.toNat + 1) % 2) }
              mem := m
              free := f })

/-- R94, R142, R161: the rows of the kind map are the arms of `CAN.RX` (log 1): the row of the unread frame's kind does
what `CAN.RX` does but for the phase, every other row does nothing. The row for foreign identifiers carries the
identifier. -/
def Obligations.FrameRowsTakeTheirOwnKind : Prop :=
  ∀ s : State,
    (∀ bytes : List Byte, s.c.rx.full = true → memRead .crx s.c.rx.len.toNat s.mem = .ok bytes →
      ∃ m : Memory, SlotWritten s.mem m .cmsg bytes ∧
        ∀ i : Instr,
          (i = .frameGear ∧ s.c.rx.id = Config.idGear) ∨ (i = .frameSpeed ∧ s.c.rx.id = Config.idSpeed) ∨
            (i = .frameRpm ∧ s.c.rx.id = Config.idRpm) ∨
            (i = .frameIndicator ∧ s.c.rx.id = Config.idIndicator) ∨
            (i = .frameUnknown s.c.rx.id ∧ ∀ k, idOf k ≠ some s.c.rx.id) →
          exec i s = .next
            { s with
                c := { s.c with
                  msg := ⟨kindOf s.c.rx.id, s.c.rx.len⟩
                  rx := ⟨s.c.rx.id, s.c.rx.len, false⟩ }
                mem := m }) ∧
    (s.c.rx.full = false ∨ s.c.rx.id ≠ Config.idGear → exec .frameGear s = .next s) ∧
    (s.c.rx.full = false ∨ s.c.rx.id ≠ Config.idSpeed → exec .frameSpeed s = .next s) ∧
    (s.c.rx.full = false ∨ s.c.rx.id ≠ Config.idRpm → exec .frameRpm s = .next s) ∧
    (s.c.rx.full = false ∨ s.c.rx.id ≠ Config.idIndicator → exec .frameIndicator s = .next s) ∧
    (∀ id, s.c.rx.full = false ∨ s.c.rx.id ≠ id ∨ kindOf id ≠ .unknown →
      exec (.frameUnknown id) s = .next s)

/-- R93, R142: the row for length 0 is the arm of `CAN.RX` that reports "no message" (log 1): without an unread frame,
and with one of length 0, whose slot it frees; with a longer frame it does nothing. -/
def Obligations.FrameNoneReportsNoMessage : Prop :=
  ∀ s : State,
    (s.c.rx.full = false ∨ s.c.rx.len = 0 →
      ∃ (m : Memory) (k : Kind) (f : Nat), SlotWritten s.mem m .cmsg [] ∧
        exec .frameNone s = .next
          { s with
              c := { s.c with msg := ⟨k, 0⟩, rx := ⟨s.c.rx.id, s.c.rx.len, false⟩ }
              mem := m
              free := f }) ∧
    (s.c.rx.full = true → s.c.rx.len ≠ 0 → exec .frameNone s = .next s)

/-- R145: of two deliveries into a receive slot, by two senders or by one, with any steps between, the second leaves the
slot holding the frame then staged whole and nothing of the first. On `C`, if none of the steps between polls or resets
it, the message register still holds what it held before the first delivery; and the next poll, after any steps that
neither deliver to `C` nor poll nor reset it, reports the second frame whole. -/
def Obligations.LaterDeliveryReplacesTheUnreadFrame : Prop :=
  ∀ (a b r : Role) (between : List Instr) (s t u v : State) (bytes : List Byte), r ≠ a → r ≠ b →
    exec (.busDeliver a) s = .next t → execAll between t = .next u →
    memRead (txSlot b) (u.tx b).len.toNat u.mem = .ok bytes → exec (.busDeliver b) u = .next v →
    (v.rx r = ⟨(u.tx b).id, (u.tx b).len, true⟩ ∧
      ∀ j, j < 8 → readByte v.mem (slotBase (rxSlot r) + j) = bytes[j]?) ∧
    ((∀ i ∈ between, ¬ isPoll i ∧ i ≠ .reset .c) →
      v.c.msg = s.c.msg ∧
        ∀ j, j < 8 → readByte v.mem (slotBase .cmsg + j) = readByte s.mem (slotBase .cmsg + j)) ∧
    (r = .c → ∀ (after : List Instr) (x : State),
      (∀ i ∈ after, ¬ isPoll i ∧ i ≠ .reset .c ∧ i ≠ .busDeliver .p1 ∧ i ≠ .busDeliver .p2) →
      execAll after v = .next x →
      ∃ y : State, exec .canRx x = .next y ∧ y.c.msg = ⟨kindOf (u.tx b).id, (u.tx b).len⟩ ∧
        memRead .cmsg (u.tx b).len.toNat y.mem = .ok bytes)

/-- R74 (a), R145, R148 (no invention and no mixing are decision D11): after any instruction a slot that holds an
unread frame holds what it held before, registers and bytes, or a delivery from another node with a pending request has
just given it that node's staged frame whole, whether or not it held one. -/
def Obligations.FramesArriveByDeliveryOnly : Prop :=
  ∀ (i : Instr) (s t : State) (r : Role), exec i s = .next t → (t.rx r).full = true →
    (t.rx r = s.rx r ∧
      ∀ j, j < 8 → readByte t.mem (slotBase (rxSlot r) + j) = readByte s.mem (slotBase (rxSlot r) + j)) ∨
    ∃ src, i = .busDeliver src ∧ src ≠ r ∧ (s.tx src).req = true ∧
      t.rx r = ⟨(s.tx src).id, (s.tx src).len, true⟩ ∧
      ∀ j, j < 8 → readByte t.mem (slotBase (rxSlot r) + j) =
        if j < (s.tx src).len.toNat then readByte s.mem (slotBase (txSlot src) + j) else none

/-- R149, with its premises: a producer transmits twice, its request is delivered, the consumer polls: the message is
the second transmission whole, and a poll after that finds none. -/
def Obligations.SecondTransmissionIsTheOneReceived : Prop :=
  ∀ (n : Producer) (k k' : Kind) (len len' : Len) (p p' : List Byte) (s t1 t2 : State),
    exec (.canTx n.role k len p) s = .next t1 → exec (.canTx n.role k' len' p') t1 = .next t2 →
    ∃ t3 t4 t5 : State,
      exec (.busDeliver n.role) t2 = .next t3 ∧ exec .canRx t3 = .next t4 ∧ exec .canRx t4 = .next t5 ∧
      t4.c.msg = ⟨k', len'⟩ ∧ memRead .cmsg len'.toNat t4.mem = .ok p' ∧
      t5.c.msg.len = 0

/-- R22, R147: on `P1` and `P2` the receive slot is never read. For every instruction, two states that differ in its
registers only have the same outcome but for them, and two that differ in its registers and payload bytes have outcomes
that differ in no more: next states alike in every other register and payload byte, or the same fault or refusal. -/
def Obligations.ProducersNeverReadTheirReceiveSlot : Prop :=
  (∀ (i : Instr) (s : State) (r1 r2 : RxSlot),
    andThen (exec i { s with p1 := { s.p1 with rx := r1 }, p2 := { s.p2 with rx := r2 } })
        (fun t => (t.setRx .p1 RxSlot.reset).setRx .p2 RxSlot.reset) =
      andThen (exec i s) (fun t => (t.setRx .p1 RxSlot.reset).setRx .p2 RxSlot.reset)) ∧
  ∀ (i : Instr) (s t : State), SameButProducerRx s t → SameOutcome SameButProducerRx (exec i s) (exec i t)

/-! ### Dispatcher -/

/-- R224: a GEAR message in NORMAL, by its first byte: 8 enters COLLISION and draws the alarm, 0 to 7 prints the gear's
text, 9 to 255 does nothing. The display calls are decisions D21 and D28. -/
def Obligations.DispatchGearInNormal : Prop :=
  ∀ (s : State) (v : Byte), s.c.mode = .normal → s.c.msg.len ≠ 0 → s.c.msg.kind = .gear →
    readByte s.mem (slotBase .cmsg) = some v →
    exec .dispatch s = .next
      (if v = 8 then
        { s with c := { s.c with
            mode := .collision
            phase := 0
            out := s.c.out ++ [.clear, .printAt Config.addrAlarm Config.alarmText] } }
      else if v.toNat ≤ 7 then
        { s with c := { s.c with
            phase := 0
            out := s.c.out ++ [.printAt Config.addrGear (Config.gearText (Fin.ofNat (Config.gearTop + 1) v.toNat))] } }
      else { s with c := { s.c with phase := 0 } })

/-- R225 with `ALARM_RERENDER = ENTRY_ONLY` (R10, log 8): a GEAR message in COLLISION: any byte but 8 leaves it, clears
the display and draws the labels; 8 does nothing. -/
def Obligations.DispatchGearInCollision : Prop :=
  ∀ (s : State) (v : Byte), s.c.mode = .collision → s.c.msg.len ≠ 0 → s.c.msg.kind = .gear →
    readByte s.mem (slotBase .cmsg) = some v →
    exec .dispatch s = .next
      (if v = 8 then { s with c := { s.c with phase := 0 } }
      else
        { s with c := { s.c with
            mode := .normal
            phase := 0
            out := s.c.out ++ .clear :: Config.labels.map fun l => .printAt l.1 l.2 } })

/-- R225: the two settings of `ALARM_RERENDER` differ in what a repeated sentinel draws and in nothing else. -/
def Obligations.AlarmRerenderDecidesOnlyTheRepeat : Prop :=
  ∀ (s : State) (v : Byte),
    gearCollision .everySentinel v s =
      if v = 8 then
        { gearCollision .entryOnly v s with c := { s.c with
            out := s.c.out ++ [.clear, .printAt Config.addrAlarm Config.alarmText] } }
      else gearCollision .entryOnly v s

/-- R226, R227: a SPEED or RPM message in NORMAL is printed byte for byte as received (decision D21). -/
def Obligations.DispatchPrintsSpeedAndRpmAsReceived : Prop :=
  ∀ (s : State) (bytes : List Byte), s.c.mode = .normal → s.c.msg.len ≠ 0 →
    memRead .cmsg s.c.msg.len.toNat s.mem = .ok bytes →
    (s.c.msg.kind = .speed → exec .dispatch s = .next
      { s with c := { s.c with phase := 0, out := s.c.out ++ [.printAt Config.addrSpeed bytes] } }) ∧
    (s.c.msg.kind = .rpm → exec .dispatch s = .next
      { s with c := { s.c with phase := 0, out := s.c.out ++ [.printAt Config.addrRpm bytes] } })

/-- R228, R260, R261: an INDICATOR message in NORMAL: a byte above 3 does nothing; a byte in 0 to 3 writes both lamps
and both markers from the tick of this step (the inactive side is decision D24). -/
def Obligations.DispatchIndicatorDrivesBothLamps : Prop :=
  ∀ (s : State) (v : Byte), s.c.mode = .normal → s.c.msg.len ≠ 0 → s.c.msg.kind = .indicator →
    readByte s.mem (slotBase .cmsg) = some v →
    ∃ l r : Bool,
      (l = true ↔ (v = 1 ∨ v = 3) ∧ s.c.tick.toNat ≤ 10000) ∧
      (r = true ↔ (v = 2 ∨ v = 3) ∧ s.c.tick.toNat ≤ 10000) ∧
      exec .dispatch s = .next
        (if v.toNat ≤ 3 then
          { s with c := { s.c with
              phase := 0
              lampL := l
              lampR := r
              out := s.c.out ++
                [.writeAt Config.addrMarkL (if l then Config.markL else Config.blank),
                 .writeAt Config.addrMarkR (if r then Config.markR else Config.blank)] } }
        else { s with c := { s.c with phase := 0 } })

/-- R221 corner (a), R223, R229: with no message, with one of kind UNKNOWN, and in COLLISION with one that is not GEAR,
`DISPATCH` sets the phase and changes nothing else: nothing is displayed, no lamp is written, nothing is kept. -/
def Obligations.DispatchDropsSilently : Prop :=
  ∀ s : State,
    s.c.msg.len = 0 ∨ s.c.msg.kind = .unknown ∨ (s.c.mode = .collision ∧ s.c.msg.kind ≠ .gear) →
    exec .dispatch s = .next { s with c := { s.c with phase := 0 } }

/-- R233: after a `DISPATCH` that handled a GEAR message the mode is COLLISION exactly if its first byte was 8; after
any other the mode is as it was. -/
def Obligations.ModeFollowsTheLastGearMessage : Prop :=
  ∀ s t : State, exec .dispatch s = .next t →
    (s.c.msg.len ≠ 0 → s.c.msg.kind = .gear →
      ∃ v, readByte s.mem (slotBase .cmsg) = some v ∧ (t.c.mode = .collision ↔ v = 8)) ∧
    (s.c.msg.len = 0 ∨ s.c.msg.kind ≠ .gear → t.c.mode = s.c.mode)

/-- R102, R221: the mode rows are the two arms of `DISPATCH` (log 1): the row of the current mode does what `DISPATCH`
does but for the phase, which it leaves as it was, and the other does nothing. -/
def Obligations.ModeRowsAreTheArmsOfDispatch : Prop :=
  ∀ s : State,
    (s.c.mode = .normal →
      exec .dispatch s = andThen (exec .modeNormal s) (fun t => { t with c := { t.c with phase := 0 } }) ∧
      exec .modeCollision s = .next s) ∧
    (s.c.mode = .collision →
      exec .dispatch s = andThen (exec .modeCollision s) (fun t => { t with c := { t.c with phase := 0 } }) ∧
      exec .modeNormal s = .next s) ∧
    (s.c.msg.len = 0 → exec .modeNormal s = .next s ∧ exec .modeCollision s = .next s) ∧
    (∀ t, exec .modeNormal s = .next t ∨ exec .modeCollision s = .next t → t.c.phase = s.c.phase)

/-- R107, R224, R225: the GEAR byte rows are the arms of the GEAR handlers (log 1): the row of the message's byte does
what `DISPATCH` does but for the phase, which it leaves as it was; on another byte, another kind or no message a row
does nothing. -/
def Obligations.GearByteRowsAreTheArmsOfTheHandlers : Prop :=
  ∀ s : State,
    (∀ v : Byte, readByte s.mem (slotBase .cmsg) = some v → s.c.msg.len ≠ 0 → s.c.msg.kind = .gear →
      ∃ t : State, t.c.phase = s.c.phase ∧
        exec .dispatch s = .next { t with c := { t.c with phase := 0 } } ∧
        (v.toNat ≤ 7 → exec (.gearbyteDisplay v) s = .next t) ∧
        (v = 8 → exec .gearbyteSentinel s = .next t) ∧
        (9 ≤ v.toNat → exec (.gearbyteOutOfRange v) s = .next t)) ∧
    (∀ v : Byte, readByte s.mem (slotBase .cmsg) = some v →
      (∀ w, w ≠ v → exec (.gearbyteDisplay w) s = .next s ∧ exec (.gearbyteOutOfRange w) s = .next s) ∧
      (v ≠ 8 → exec .gearbyteSentinel s = .next s)) ∧
    (s.c.msg.len = 0 ∨ s.c.msg.kind ≠ .gear →
      exec .gearbyteSentinel s = .next s ∧
        ∀ w, exec (.gearbyteDisplay w) s = .next s ∧ exec (.gearbyteOutOfRange w) s = .next s)

/-- R101, R228: the INDICATOR byte rows are the arms of `H.IND` (log 1): the row of the message's byte does what
`DISPATCH` does in NORMAL but for the phase, which it leaves as it was; on another byte, another kind, no message or in
COLLISION a row does nothing. -/
def Obligations.IndByteRowsAreTheArmsOfTheHandler : Prop :=
  ∀ s : State,
    (∀ v : Byte, readByte s.mem (slotBase .cmsg) = some v →
      s.c.mode = .normal → s.c.msg.len ≠ 0 → s.c.msg.kind = .indicator →
      ∃ t : State, t.c.phase = s.c.phase ∧
        exec .dispatch s = .next { t with c := { t.c with phase := 0 } } ∧
        (v = 0 → exec .indOff s = .next t) ∧
        (v = 1 → exec .indLeft s = .next t) ∧
        (v = 2 → exec .indRight s = .next t) ∧
        (v = 3 → exec .indHazard s = .next t) ∧
        (4 ≤ v.toNat → exec (.indIgnored v) s = .next t ∧ t = s)) ∧
    (∀ v : Byte, readByte s.mem (slotBase .cmsg) = some v →
      (v ≠ 0 → exec .indOff s = .next s) ∧
      (v ≠ 1 → exec .indLeft s = .next s) ∧
      (v ≠ 2 → exec .indRight s = .next s) ∧
      (v ≠ 3 → exec .indHazard s = .next s) ∧
      ∀ w, w ≠ v → exec (.indIgnored w) s = .next s) ∧
    (s.c.mode = .collision ∨ s.c.msg.len = 0 ∨ s.c.msg.kind ≠ .indicator →
      exec .indOff s = .next s ∧ exec .indLeft s = .next s ∧ exec .indRight s = .next s ∧
      exec .indHazard s = .next s ∧ ∀ w, exec (.indIgnored w) s = .next s)

/-- R223, R236: while the mode is COLLISION no instruction but a reset of `C` writes the lamps. -/
def Obligations.LampsAreFrozenInCollision : Prop :=
  ∀ (i : Instr) (s t : State), exec i s = .next t → s.c.mode = .collision → i ≠ .reset .c →
    t.c.lampL = s.c.lampL ∧ t.c.lampR = s.c.lampR

/-- R235: COLLISION is left only by a reset of `C` or by a GEAR message whose first byte is not 8; over every
instruction. -/
def Obligations.OnlyANonSentinelGearEndsTheAlarm : Prop :=
  ∀ (i : Instr) (s t : State), exec i s = .next t → s.c.mode = .collision → t.c.mode = .normal →
    i = .reset .c ∨
      (s.c.msg.len ≠ 0 ∧ s.c.msg.kind = .gear ∧ ∃ v, readByte s.mem (slotBase .cmsg) = some v ∧ v ≠ 8)

/-- R44: the output trace is append-only, but for a reset of `C`; over every instruction. -/
def Obligations.OutputTraceIsAppendOnly : Prop :=
  ∀ (i : Instr) (s t : State), exec i s = .next t → i ≠ .reset .c → ∃ events, t.c.out = s.c.out ++ events

/-! ### Blinker, tick, reset -/

/-- R260, R261: the table of `BLINK`. That LEFT and RIGHT give off on the other side is decision D24 (R260 f). -/
def Obligations.BlinkFollowsItsTable : Prop :=
  ∀ t : Tick,
    (t.toNat ≤ 10000 →
      blink .off t = (false, false) ∧ blink .left t = (true, false) ∧ blink .right t = (false, true) ∧
        blink .hazard t = (true, true)) ∧
    (10000 < t.toNat → ∀ i, blink i t = (false, false))

/-- R267, R268, R292: `TIMER.FIRE` sets the pending flag, whatever it was, and nothing else; `TICK.ISR` is enabled only
with the flag set (else refused, log 13); then it advances the counter with its wrap and clears the flag, and touches
nothing else. The split in two steps is decision D20. -/
def Obligations.TickInterruptIsRaisedAndTaken : Prop :=
  ∀ s : State,
    exec .timerFire s = .next { s with c := { s.c with tickIf := true } } ∧
    (s.c.tickIf = false → exec .tickIsr s = .refused .notEnabled) ∧
    (s.c.tickIf = true → exec .tickIsr s = .next
      { s with c := { s.c with
          tick := if s.c.tick = 19999 then 0 else s.c.tick + 1
          tickIf := false } })

/-- R269: after `k` served timer fires the counter has advanced by `k` modulo `TICK_MOD`. -/
def Obligations.TicksCountModuloTickMod : Prop :=
  ∀ (k : Nat) (s : State), s.c.tick.toNat < 20000 →
    ∃ t, ticks k s = .next t ∧ t.c.tick.toNat = (s.c.tick.toNat + k) % 20000

/-- R26, R27, R28, R31, R33: each latch is written only by its own operation, that operation's rows (log 1) and the
node's reset; over every instruction. -/
def Obligations.LatchesAreWrittenByTheirOperationsOnly : Prop :=
  ∀ (i : Instr) (s t : State), exec i s = .next t →
    (t.gear ≠ s.gear →
      i = .gearStep ∨ i = .keyP1Increment ∨ i = .keyP1Decrement ∨ i = .keyP1Collision ∨ i = .reset .p1) ∧
    (t.ind ≠ s.ind →
      i = .indStep ∨ i = .keyP2Left ∨ i = .keyP2Right ∨ i = .keyP2Hazard ∨ i = .keyP2Off ∨ i = .reset .p2) ∧
    (t.c.tick ≠ s.c.tick → i = .tickIsr ∨ i = .reset .c) ∧
    (t.c.mode ≠ s.c.mode →
      i = .dispatch ∨ i = .modeNormal ∨ i = .modeCollision ∨ (∃ v, i = .gearbyteDisplay v) ∨
        i = .gearbyteSentinel ∨ (∃ v, i = .gearbyteOutOfRange v) ∨ i = .reset .c) ∧
    ∀ n : Producer, (t.prod n).armed ≠ (s.prod n).armed →
      (∃ m, i = .keyEdge n m) ∨ i = .keyAllReleased n ∨ i = .reset n.role

/-- R301: nodes are coupled by deliveries only: an instruction that acts on one node leaves every register and every
payload byte of the other nodes as it was, and the model's script and turn. -/
def Obligations.NodesAreCoupledByDeliveryOnly : Prop :=
  ∀ (i : Instr) (n : Role) (s t : State), exec i s = .next t → instrNode i = some n →
    (n ≠ .p1 → t.p1 = s.p1 ∧ t.gear = s.gear) ∧
    (n ≠ .p2 → t.p2 = s.p2 ∧ t.ind = s.ind) ∧
    (n ≠ .c → t.c = s.c) ∧
    (∀ a, inNode n a = false → readByte t.mem a = readByte s.mem a) ∧
    t.feed = s.feed ∧ t.turn = s.turn

/-- R45, R310, R313: `RESET` of a node leaves its flags, latches and phase (on `C` also the message's length, the tick,
the lamps and the output trace) at the values R45 gives, no payload byte of the node with a value, and the other nodes
as they were (decisions D26, D27, D33; the registers R45 calls unspecified are log 9's and are left out). -/
def Obligations.ResetOfANode : Prop :=
  (∀ (n : Producer) (s : State), ∃ t : State, exec (.reset n.role) s = .next t ∧
    (t.tx n.role).req = false ∧ (t.rx n.role).full = false ∧ (t.prod n).phase = 0 ∧
    (t.prod n).kev.valid = false ∧ (t.prod n).armed = true ∧
    (n = .p1 → t.gear = 0 ∧ t.p2 = s.p2 ∧ t.ind = s.ind) ∧
    (n = .p2 → t.ind = .off ∧ t.p1 = s.p1 ∧ t.gear = s.gear) ∧
    t.c = s.c ∧
    (∀ a, readByte t.mem a = if inNode n.role a then none else readByte s.mem a)) ∧
  ∀ s : State, ∃ t : State, exec (.reset .c) s = .next t ∧
    t.c.tx.req = false ∧ t.c.rx.full = false ∧ t.c.phase = 0 ∧ t.c.msg.len = 0 ∧ t.c.mode = .normal ∧
    t.c.tick = 0 ∧ t.c.tickIf = false ∧ t.c.lampL = false ∧ t.c.lampR = false ∧
    t.c.out = .clear :: (Config.labels.map fun l => .printAt l.1 l.2) ∧
    t.p1 = s.p1 ∧ t.gear = s.gear ∧ t.p2 = s.p2 ∧ t.ind = s.ind ∧
    (∀ a, readByte t.mem a = if inNode .c a then none else readByte s.mem a)

/-- R45, R312: the values that R45 gives for the state right after reset of all three nodes. -/
def Obligations.ResetStateHoldsTheValuesOfR45 : Prop :=
  (∀ n, (State.reset.tx n).req = false ∧ (State.reset.rx n).full = false ∧ State.reset.phase n = 0) ∧
  (∀ n, (State.reset.prod n).kev.valid = false ∧ (State.reset.prod n).armed = true) ∧
  State.reset.gear = 0 ∧ State.reset.ind = .off ∧ State.reset.c.msg.len = 0 ∧ State.reset.c.mode = .normal ∧
  State.reset.c.tick = 0 ∧ State.reset.c.tickIf = false ∧ State.reset.c.lampL = false ∧
  State.reset.c.lampR = false ∧
  State.reset.c.out = .clear :: (Config.labels.map fun l => .printAt l.1 l.2) ∧
  ∀ a, readByte State.reset.mem a = none
end

