-- ==== Sys2Proof/Laws/Config.lean ====
section
/-! SUPPORT. The values of R10 that are formed from others, as numerals, and the constraints that its table states. -/

namespace Sys2Proof.Config

@[simp] theorem speedMax_eq : speedMax = 999 := rfl

@[simp] theorem rpmMax_eq : rpmMax = 99999 := rfl

@[simp] theorem halfPeriod_eq : halfPeriod = 10000 := rfl

/-- `N_NODES`: the roles are so many. -/
theorem roles_length : ∃ l : List Role, l.length = nNodes ∧ l.Nodup ∧ ∀ r, r ∈ l :=
  ⟨[.p1, .p2, .c], rfl, by decide, fun r => by cases r <;> decide⟩

theorem sentinel_eq : sentinel = gearTop + 1 := rfl

/-- The constraints on `TICK_MOD` and `TICK_W`. -/
theorem tickMod_range : 2 ≤ tickMod ∧ tickMod ≤ 2 ^ tickW := by decide

/-- `KEY_W >= 1`. -/
theorem keyW_pos : 1 ≤ keyW := by unfold keyW; omega

end Sys2Proof.Config
end

