-- ==== Sys2Proof/Laws/Codec.lean ====
section
/-! SUPPORT. The OPEN parameters meet their constraints (R10), and the small lemmas of the tables. -/

namespace Sys2Proof

open Config

/-- The four identifiers are pairwise distinct (R10, R94). -/
theorem ids_distinct :
    idGear ≠ idSpeed ∧ idGear ≠ idRpm ∧ idGear ≠ idIndicator ∧ idSpeed ≠ idRpm ∧ idSpeed ≠ idIndicator ∧
      idRpm ≠ idIndicator := by
  refine ⟨?_, ?_, ?_, ?_, ?_, ?_⟩ <;>
    exact fun h => absurd (idPerm.injective h) (by decide)

theorem keyW_pow : 2 ^ keyW = 8 * 2 ^ keyWAbove := by
  rw [keyW, pow_add]; omega

/-- Small numbers are different key masks. -/
theorem ofNat_keyMask_ne {j k : Nat} (hj : j < 8) (hk : k < 8) (h : j ≠ k) :
    (BitVec.ofNat keyW j : KeyMask) ≠ BitVec.ofNat keyW k := by
  intro e
  have e' := congrArg BitVec.toNat e
  have hp : 1 ≤ 2 ^ keyWAbove := Nat.one_le_two_pow
  have hw := keyW_pow
  simp only [BitVec.toNat_ofNat] at e'
  rw [Nat.mod_eq_of_lt (by omega), Nat.mod_eq_of_lt (by omega)] at e'
  exact h e'

/-- Different indices give different masks (R10). -/
theorem keyAt_ne (p : Equiv.Perm KeyMask) {j k : Nat} (hj : j < 8) (hk : k < 8) (h : j ≠ k) :
    keyAt p j ≠ keyAt p k := fun e =>
  ofNat_keyMask_ne hj hk h (p.injective ((Equiv.swap (p 0) 0).injective e))

/-- No key's mask is `ALL_RELEASED` (R10). -/
theorem keyAt_ne_released (p : Equiv.Perm KeyMask) {k : Nat} (hk : k < 8) (h : k ≠ 0) :
    keyAt p k ≠ allReleased := by
  have e : keyAt p 0 = allReleased := by simp [keyAt, allReleased]
  exact e ▸ keyAt_ne p hk (by omega) h

/-- The keys of `P1` are pairwise distinct and none is `ALL_RELEASED` (R10, R104). -/
theorem keysP1_distinct :
    kInc ≠ kDec ∧ kInc ≠ kCol ∧ kDec ≠ kCol ∧ kInc ≠ allReleased ∧ kDec ≠ allReleased ∧ kCol ≠ allReleased :=
  ⟨keyAt_ne _ (by decide) (by decide) (by decide), keyAt_ne _ (by decide) (by decide) (by decide),
   keyAt_ne _ (by decide) (by decide) (by decide), keyAt_ne_released _ (by decide) (by decide),
   keyAt_ne_released _ (by decide) (by decide), keyAt_ne_released _ (by decide) (by decide)⟩

/-- The keys of `P2` are pairwise distinct and none is `ALL_RELEASED` (R10, R105). -/
theorem keysP2_distinct :
    kOff ≠ kLeft ∧ kOff ≠ kRight ∧ kOff ≠ kHaz ∧ kLeft ≠ kRight ∧ kLeft ≠ kHaz ∧ kRight ≠ kHaz ∧
      kOff ≠ allReleased ∧ kLeft ≠ allReleased ∧ kRight ≠ allReleased ∧ kHaz ≠ allReleased :=
  ⟨keyAt_ne _ (by decide) (by decide) (by decide), keyAt_ne _ (by decide) (by decide) (by decide),
   keyAt_ne _ (by decide) (by decide) (by decide), keyAt_ne _ (by decide) (by decide) (by decide),
   keyAt_ne _ (by decide) (by decide) (by decide), keyAt_ne _ (by decide) (by decide) (by decide),
   keyAt_ne_released _ (by decide) (by decide), keyAt_ne_released _ (by decide) (by decide),
   keyAt_ne_released _ (by decide) (by decide), keyAt_ne_released _ (by decide) (by decide)⟩

namespace Machine

@[simp] theorem kindOf_idGear : kindOf idGear = .gear := by simp [kindOf]

@[simp] theorem kindOf_idSpeed : kindOf idSpeed = .speed := by
  simp [kindOf, ids_distinct.1.symm]

@[simp] theorem kindOf_idRpm : kindOf idRpm = .rpm := by
  simp [kindOf, ids_distinct.2.1.symm, ids_distinct.2.2.2.1.symm]

@[simp] theorem kindOf_idIndicator : kindOf idIndicator = .indicator := by
  simp [kindOf, ids_distinct.2.2.1.symm, ids_distinct.2.2.2.2.1.symm, ids_distinct.2.2.2.2.2.symm]

@[simp] theorem gearKeyOf_kInc : gearKeyOf kInc = some .increment := by simp [gearKeyOf]

@[simp] theorem gearKeyOf_kDec : gearKeyOf kDec = some .decrement := by
  simp [gearKeyOf, keysP1_distinct.1.symm]

@[simp] theorem gearKeyOf_kCol : gearKeyOf kCol = some .collision := by
  simp [gearKeyOf, keysP1_distinct.2.1.symm, keysP1_distinct.2.2.1.symm]

@[simp] theorem indKeyOf_kOff : indKeyOf kOff = some .off := by simp [indKeyOf]

@[simp] theorem indKeyOf_kLeft : indKeyOf kLeft = some .left := by
  simp [indKeyOf, keysP2_distinct.1.symm]

@[simp] theorem indKeyOf_kRight : indKeyOf kRight = some .right := by
  simp [indKeyOf, keysP2_distinct.2.1.symm, keysP2_distinct.2.2.2.1.symm]

@[simp] theorem indKeyOf_kHaz : indKeyOf kHaz = some .hazard := by
  simp [indKeyOf, keysP2_distinct.2.2.1.symm, keysP2_distinct.2.2.2.2.1.symm,
    keysP2_distinct.2.2.2.2.2.1.symm]

@[simp] theorem indOf_indCode (i : Ind) : indOf (BitVec.ofNat 8 (indCode i)) = some i := by
  cases i <;> decide

@[simp] theorem indOf_indByte (i : Ind) : indOf (indByte i) = some i := indOf_indCode i

@[simp] theorem kindOfCode_kindCode (k : Kind) : kindOfCode (kindCode k) = some k := by
  cases k <;> rfl

theorem digitsWithin_ne_nil (fuel v : Nat) : digitsWithin fuel v ≠ [] := by
  cases fuel with
  | zero => simp [digitsWithin]
  | succ fuel => simp only [digitsWithin]; split <;> simp

/-- The zero case is two bytes (R164, R166). -/
theorem encNum_zero : encNum 0 = [0x30, 0x30] := rfl

theorem encNum_pos {v : Nat} (h : v ≠ 0) : encNum v = digitsWithin v v := by simp [encNum, digits, h]

end Machine
end Sys2Proof
end

