-- ==== Sys2Proof/Laws/Memory.lean ====
section
/-! SUPPORT. What the memory operations do: reading after writing, and the canonical form. -/

namespace Sys2Proof.Machine

@[simp] theorem readByte_nil (x : Nat) : readByte [] x = none := rfl

@[simp] theorem lenMax_eq : Config.lenMax = 8 := rfl

/-- An entry's membership decides a read of an address that no entry holds. -/
theorem readByte_none_of_not_mem {m : Memory} {x : Nat} (h : ∀ cell ∈ m, cell.1 ≠ x) : readByte m x = none := by
  induction m with
  | nil => rfl
  | cons cell m ih =>
    obtain ⟨a, b⟩ := cell
    have ha : x ≠ a := fun e => h (a, b) (by simp) e.symm
    simp only [readByte, ha, if_false]
    exact ih fun c hc => h c (by simp [hc])

/-- A byte read after a slot has been left without values (R62). -/
theorem readByte_clearSlot (sl : Slot) (m : Memory) (x : Nat) :
    readByte (clearSlot sl m) x = if inSlot sl x then none else readByte m x := by
  induction m with
  | nil => simp [clearSlot]
  | cons cell m ih =>
    obtain ⟨a, b⟩ := cell
    have ih' : readByte (List.filter (fun cell => !inSlot sl cell.1) m) x
        = if inSlot sl x then none else readByte m x := ih
    by_cases ha : inSlot sl a = true
    · by_cases hx : x = a
      · subst hx; simp [clearSlot, ha, ih']
      · simp [clearSlot, ha, ih', readByte, hx]
    · by_cases hx : x = a
      · subst hx; simp [clearSlot, ha, readByte]
      · simp [clearSlot, ha, ih', readByte, hx]

theorem inSlot_iff (sl : Slot) (a : Nat) : inSlot sl a = true ↔ slotBase sl ≤ a ∧ a < slotBase sl + 8 := by
  rw [inSlot, Bool.and_eq_true, decide_eq_true_iff, decide_eq_true_iff, lenMax_eq]

/-- The address of a slot's byte lies in that slot and in no other (R61). -/
theorem inSlot_add (sl sl' : Slot) {i : Nat} (h : i < 8) :
    inSlot sl' (slotBase sl + i) = true ↔ sl = sl' := by
  rw [inSlot_iff]
  cases sl <;> cases sl' <;> simp only [slotBase, slotIndex, lenMax_eq, reduceCtorEq, iff_true, iff_false] <;> omega

theorem slotBase_add_le (sl : Slot) : slotBase sl + 8 ≤ memorySize := by cases sl <;> decide

/-- Every address of an entry after a byte write was there before or is the one written. -/
theorem mem_writeByte {m : Memory} {x : Nat} {v : Byte} {cell : Host.Cell} (h : cell ∈ writeByte m x v) :
    cell = (x, v) ∨ cell ∈ m := by
  induction m with
  | nil => simpa [writeByte] using h
  | cons hd m ih =>
    obtain ⟨a, b⟩ := hd
    simp only [writeByte] at h
    split at h
    · simpa using h
    · split at h
      · rcases List.mem_cons.1 h with h | h
        · exact .inl h
        · exact .inr (by simp [h])
      · rcases List.mem_cons.1 h with h | h
        · exact .inr (by simp [h])
        · rcases ih h with h | h
          · exact .inl h
          · exact .inr (by simp [h])

/-- The canonical form, as a proposition. -/
theorem wf_iff (m : Memory) : m.wf = true ↔
    m.Pairwise (fun x y => x.1 < y.1) ∧ ∀ cell ∈ m, cell.1 < memorySize := by
  simp [Memory.wf]

/-- A byte write keeps the canonical form. -/
theorem wf_writeByte {m : Memory} {x : Nat} {v : Byte} (h : m.wf = true) (hx : x < memorySize) :
    (writeByte m x v).wf = true := by
  rw [wf_iff] at *
  obtain ⟨hs, hb⟩ := h
  refine ⟨?_, fun cell hc => ?_⟩
  · clear hb
    induction m with
    | nil => simp [writeByte]
    | cons hd m ih =>
      obtain ⟨a, b⟩ := hd
      rw [List.pairwise_cons] at hs
      simp only [writeByte]
      split
      · refine List.pairwise_cons.2 ⟨fun c hc => ?_, List.pairwise_cons.2 hs⟩
        rcases List.mem_cons.1 hc with rfl | hc
        · assumption
        · exact lt_trans ‹x < a› (hs.1 c hc)
      · split
        · subst x; exact List.pairwise_cons.2 hs
        · refine List.pairwise_cons.2 ⟨fun c hc => ?_, ih hs.2⟩
          rcases mem_writeByte hc with rfl | hc
          · show a < x; omega
          · exact hs.1 c hc
  · rcases mem_writeByte hc with rfl | hc
    · exact hx
    · exact hb cell hc

/-- Leaving a slot without values keeps the canonical form. -/
theorem wf_clearSlot {m : Memory} (sl : Slot) (h : m.wf = true) : (clearSlot sl m).wf = true := by
  rw [wf_iff] at *
  exact ⟨h.1.filter _, fun cell hc => h.2 cell (List.mem_of_mem_filter hc)⟩

theorem wf_writeFrom {m : Memory} (h : m.wf = true) (bytes : List Byte) (a : Nat)
    (ha : a + bytes.length ≤ memorySize) : (writeFrom m a bytes).wf = true := by
  induction bytes generalizing a with
  | nil => exact h
  | cons b bs ih =>
    simp only [List.length_cons] at ha
    exact wf_writeByte (ih (a + 1) (by omega)) (by omega)

/-- `MemWrite` of at most eight bytes keeps the canonical form. -/
theorem wf_memWrite {m : Memory} (sl : Slot) (bytes : List Byte) (h : m.wf = true) (hb : bytes.length ≤ 8) :
    (memWrite sl bytes m).wf = true :=
  wf_writeFrom (wf_clearSlot sl h) bytes _ (by have := slotBase_add_le sl; omega)

/-- `MemRead` answers as many bytes as it is asked for, at most eight, each the byte at its index. -/
theorem readFrom_ok {m : Memory} {n a : Nat} {bytes : List Byte} (h : readFrom m a n = .ok bytes) :
    bytes.length = n ∧ ∀ i, i < n → readByte m (a + i) = bytes[i]? := by
  induction n generalizing a bytes with
  | zero => simp only [readFrom, Except.ok.injEq] at h; subst h; simp
  | succ n ih =>
    simp only [readFrom] at h
    split at h
    · cases h
    · rename_i b hb
      split at h
      · rename_i bs hbs
        simp only [Except.ok.injEq] at h
        subst h
        obtain ⟨hl, hr⟩ := ih hbs
        refine ⟨by simp [hl], fun i hi => ?_⟩
        cases i with
        | zero => simpa using hb
        | succ i =>
          have := hr i (by omega)
          rw [show a + (i + 1) = a + 1 + i by omega, this]
          simp
      · cases h

/-- `MemRead` answers if every byte it reads holds a value. -/
theorem readFrom_some {m : Memory} {n a : Nat} (h : ∀ i, i < n → (readByte m (a + i)).isSome) :
    ∃ bytes, readFrom m a n = .ok bytes := by
  induction n generalizing a with
  | zero => exact ⟨[], rfl⟩
  | succ n ih =>
    obtain ⟨bs, hbs⟩ := ih (a := a + 1) fun i hi => by
      have := h (i + 1) (by omega); rwa [show a + (i + 1) = a + 1 + i by omega] at this
    obtain ⟨b, hb⟩ := Option.isSome_iff_exists.1 (h 0 (by omega))
    rw [Nat.add_zero] at hb
    exact ⟨b :: bs, by simp [readFrom, hb, hbs]⟩

/-- What `MemRead` answers (R62). -/
theorem memRead_ok {sl : Slot} {n : Nat} {m : Memory} {bytes : List Byte} (h : memRead sl n m = .ok bytes) :
    n ≤ 8 ∧ bytes.length = n ∧ ∀ i, i < n → readByte m (slotBase sl + i) = bytes[i]? := by
  rw [memRead] at h
  by_cases hn : n ≤ Config.lenMax
  · rw [if_pos hn] at h
    exact ⟨hn, readFrom_ok h⟩
  · rw [if_neg hn] at h
    cases h

/-- `MemRead` of a whole frame's bytes answers (R43, R62). -/
theorem memRead_of_slotHolds {sl : Slot} {n : Nat} {m : Memory} (hn : n ≤ 8) (h : SlotHolds m sl n) :
    ∃ bytes, memRead sl n m = .ok bytes := by
  obtain ⟨bs, hbs⟩ := readFrom_some (m := m) (a := slotBase sl) (n := n)
    fun i hi => (h i (by simp; omega)).2 hi
  exact ⟨bs, by simp [memRead, hn, hbs]⟩

/-- Reads of memories that hold the same bytes there answer the same. -/
theorem readFrom_congr {m m' : Memory} {a n : Nat} (h : ∀ j, j < n → readByte m (a + j) = readByte m' (a + j)) :
    readFrom m a n = readFrom m' a n := by
  induction n generalizing a with
  | zero => rfl
  | succ n ih =>
    have h0 : readByte m a = readByte m' a := h 0 (by omega)
    simp only [readFrom]
    rw [h0, ih (a := a + 1) fun j hj => (by
      have := h (j + 1) (by omega)
      rwa [show a + 1 + j = a + (j + 1) by omega])]

/-- `MemRead` of memories that hold the same bytes in the slot answers the same. -/
theorem memRead_congr {sl : Slot} {m m' : Memory} {n : Nat}
    (h : ∀ j, j < 8 → readByte m (slotBase sl + j) = readByte m' (slotBase sl + j)) :
    memRead sl n m = memRead sl n m' := by
  unfold memRead
  split
  · rename_i hn
    exact readFrom_congr fun j hj => h j (Nat.lt_of_lt_of_le hj hn)
  · rfl

/-- Clearing a slot after writing into it is clearing it before. -/
theorem clearSlot_writeByte {sl : Slot} {m : Memory} {x : Nat} {v : Byte} (hx : inSlot sl x = true) :
    clearSlot sl (writeByte m x v) = clearSlot sl m := by
  induction m with
  | nil => simp [clearSlot, writeByte, hx]
  | cons hd m ih =>
    obtain ⟨a, b⟩ := hd
    have ih' : List.filter (fun cell => !inSlot sl cell.1) (writeByte m x v)
        = List.filter (fun cell => !inSlot sl cell.1) m := ih
    simp only [writeByte, clearSlot]
    split
    · rw [List.filter_cons_of_neg (by simp [hx])]
    · split
      · subst x
        rw [List.filter_cons_of_neg (by simp [hx]), List.filter_cons_of_neg (by simp [hx])]
      · simp only [List.filter_cons, ih']

/-- The byte at every address after one byte is written (R62). -/
theorem readByte_writeByte (m : Memory) (x : Nat) (v : Byte) (y : Nat) :
    readByte (writeByte m x v) y = if y = x then some v else readByte m y := by
  induction m with
  | nil => simp [writeByte, readByte]
  | cons hd m ih =>
    obtain ⟨a, b⟩ := hd
    by_cases h1 : x < a
    · simp [writeByte, h1, readByte]
    · by_cases h2 : x = a
      · subst h2
        by_cases h3 : y = x
        · simp [writeByte, readByte, h3]
        · simp [writeByte, readByte, h3]
      · by_cases h3 : y = a
        · subst h3
          have h4 : ¬y = x := fun e => h2 e.symm
          simp [writeByte, h1, h2, readByte, h4]
        · simp [writeByte, h1, h2, readByte, h3, ih]

/-- The byte at every address after consecutive bytes are written. -/
theorem readByte_writeFrom (m : Memory) (a : Nat) (bytes : List Byte) (y : Nat) :
    readByte (writeFrom m a bytes) y =
      if a ≤ y ∧ y < a + bytes.length then bytes[y - a]? else readByte m y := by
  induction bytes generalizing a with
  | nil => simp [writeFrom]
  | cons b bs ih =>
    rw [writeFrom, readByte_writeByte, ih]
    by_cases h1 : y = a
    · subst h1; simp
    · by_cases h2 : a + 1 ≤ y ∧ y < a + 1 + bs.length
      · rw [if_neg h1, if_pos h2, if_pos (by simp only [List.length_cons]; omega),
          show y - a = (y - (a + 1)) + 1 by omega, List.getElem?_cons_succ]
      · rw [if_neg h1, if_neg h2, if_neg (by simp only [List.length_cons]; omega)]

/-- What `MemWrite` of at most eight bytes does to every address (R62). -/
theorem slotWritten_memWrite {bytes : List Byte} (h : bytes.length ≤ 8) (sl : Slot) (m : Memory) :
    SlotWritten m (memWrite sl bytes m) sl bytes := by
  intro a
  rw [memWrite, readByte_writeFrom, readByte_clearSlot]
  by_cases h1 : inSlot sl a = true
  · have h2 := (inSlot_iff sl a).1 h1
    by_cases h3 : slotBase sl ≤ a ∧ a < slotBase sl + bytes.length
    · rw [if_pos h3, if_pos h1]
    · rw [if_neg h3, if_pos h1, if_pos h1, List.getElem?_eq_none (by omega)]
  · have h3 : ¬(slotBase sl ≤ a ∧ a < slotBase sl + bytes.length) := fun h3 =>
      h1 ((inSlot_iff sl a).2 (by omega))
    rw [if_neg h3, if_neg h1, if_neg h1]

/-- What leaving a slot without values does to every address (R62). -/
theorem slotWritten_clearSlot (sl : Slot) (m : Memory) : SlotWritten m (clearSlot sl m) sl [] := by
  intro a
  rw [readByte_clearSlot]
  simp

/-- After a slot is written its byte `i` is element `i` of the list written (R62). -/
theorem SlotWritten.inside {m m' : Memory} {sl : Slot} {bytes : List Byte} (h : SlotWritten m m' sl bytes)
    {i : Nat} (hi : i < 8) : readByte m' (slotBase sl + i) = bytes[i]? := by
  rw [h, if_pos ((inSlot_add sl sl hi).2 rfl), Nat.add_sub_cancel_left]

/-- After a slot is written another slot's bytes read as before (R62). -/
theorem SlotWritten.other {m m' : Memory} {sl sl' : Slot} {bytes : List Byte} (h : SlotWritten m m' sl bytes)
    (hne : sl' ≠ sl) {i : Nat} (hi : i < 8) : readByte m' (slotBase sl' + i) = readByte m (slotBase sl' + i) := by
  rw [h, if_neg (fun e => hne ((inSlot_add sl' sl hi).1 e))]

/-- A slot after a write holds exactly as many bytes as were written. -/
theorem SlotWritten.holds {m m' : Memory} {sl : Slot} {bytes : List Byte} (h : SlotWritten m m' sl bytes) :
    SlotHolds m' sl bytes.length := by
  intro i hi
  rw [h.inside hi]
  simp

/-- A slot that is not written holds what it held. -/
theorem SlotWritten.holds_other {m m' : Memory} {sl sl' : Slot} {bytes : List Byte} {n : Nat}
    (h : SlotWritten m m' sl bytes) (hne : sl' ≠ sl) (hs : SlotHolds m sl' n) : SlotHolds m' sl' n := by
  intro i hi
  rw [h.other hne hi]
  exact hs i hi

/-- Two lists of the same length with the same elements are equal; `MemRead` answers the list its bytes are. -/
theorem readFrom_eq {m : Memory} {a : Nat} {bytes : List Byte}
    (h : ∀ i, i < bytes.length → readByte m (a + i) = bytes[i]?) : readFrom m a bytes.length = .ok bytes := by
  induction bytes generalizing a with
  | nil => rfl
  | cons b bs ih =>
    have h0 : readByte m a = some b := by simpa using h 0 (by simp)
    have hs : readFrom m (a + 1) bs.length = .ok bs := ih fun i hi => by
      have := h (i + 1) (by simpa using hi)
      rw [show a + 1 + i = a + (i + 1) by omega, this]
      simp
    simp [readFrom, h0, hs]

/-- `MemRead` answers the list that a slot's bytes are (R62). -/
theorem memRead_eq {sl : Slot} {m : Memory} {bytes : List Byte} (hl : bytes.length ≤ 8)
    (h : ∀ i, i < bytes.length → readByte m (slotBase sl + i) = bytes[i]?) :
    memRead sl bytes.length m = .ok bytes := by
  rw [memRead, if_pos (by simpa using hl), readFrom_eq h]

/-- Clearing a slot after writing consecutive bytes into it is clearing it before. -/
theorem clearSlot_writeFrom {sl : Slot} {m : Memory} {a : Nat} {bytes : List Byte} (ha : slotBase sl ≤ a)
    (hb : a + bytes.length ≤ slotBase sl + 8) : clearSlot sl (writeFrom m a bytes) = clearSlot sl m := by
  induction bytes generalizing a with
  | nil => rfl
  | cons b bs ih =>
    simp only [List.length_cons] at hb
    rw [writeFrom, clearSlot_writeByte ((inSlot_iff sl a).2 (by omega)), ih (by omega) (by omega)]

theorem clearSlot_clearSlot (sl : Slot) (m : Memory) : clearSlot sl (clearSlot sl m) = clearSlot sl m := by
  simp [clearSlot]

/-- A slot written twice holds what the second write alone leaves. -/
theorem memWrite_memWrite (sl : Slot) (m : Memory) (bytes bytes' : List Byte) (h : bytes.length ≤ 8) :
    memWrite sl bytes' (memWrite sl bytes m) = memWrite sl bytes' m := by
  rw [memWrite, memWrite, clearSlot_writeFrom (Nat.le_refl _) (by omega), clearSlot_clearSlot, memWrite]

end Sys2Proof.Machine
end

