-- ==== Sys2Proof/Laws/State.lean ====
section
/-! SUPPORT. The small lemmas of the state's reads and updates: one a field an update, so that no proof unfolds a record
update. -/

namespace Sys2Proof.Machine

variable (s : State)

@[simp] theorem State.setProd_gear (n : Producer) (r : ProducerNode) :
    (s.setProd n r).gear = s.gear := by cases n <;> rfl

@[simp] theorem State.setProd_ind (n : Producer) (r : ProducerNode) :
    (s.setProd n r).ind = s.ind := by cases n <;> rfl

@[simp] theorem State.setProd_mem (n : Producer) (r : ProducerNode) :
    (s.setProd n r).mem = s.mem := by cases n <;> rfl

@[simp] theorem State.setProd_feed (n : Producer) (r : ProducerNode) :
    (s.setProd n r).feed = s.feed := by cases n <;> rfl

@[simp] theorem State.setProd_turn (n : Producer) (r : ProducerNode) :
    (s.setProd n r).turn = s.turn := by cases n <;> rfl

@[simp] theorem State.setProd_free (n : Producer) (r : ProducerNode) :
    (s.setProd n r).free = s.free := by cases n <;> rfl

@[simp] theorem State.setTx_gear (n : Role) (t : TxSlot) :
    (s.setTx n t).gear = s.gear := by cases n <;> rfl

@[simp] theorem State.setTx_ind (n : Role) (t : TxSlot) :
    (s.setTx n t).ind = s.ind := by cases n <;> rfl

@[simp] theorem State.setTx_mem (n : Role) (t : TxSlot) :
    (s.setTx n t).mem = s.mem := by cases n <;> rfl

@[simp] theorem State.setTx_feed (n : Role) (t : TxSlot) :
    (s.setTx n t).feed = s.feed := by cases n <;> rfl

@[simp] theorem State.setTx_turn (n : Role) (t : TxSlot) :
    (s.setTx n t).turn = s.turn := by cases n <;> rfl

@[simp] theorem State.setTx_free (n : Role) (t : TxSlot) :
    (s.setTx n t).free = s.free := by cases n <;> rfl

@[simp] theorem State.setRx_gear (n : Role) (r : RxSlot) :
    (s.setRx n r).gear = s.gear := by cases n <;> rfl

@[simp] theorem State.setRx_ind (n : Role) (r : RxSlot) :
    (s.setRx n r).ind = s.ind := by cases n <;> rfl

@[simp] theorem State.setRx_mem (n : Role) (r : RxSlot) :
    (s.setRx n r).mem = s.mem := by cases n <;> rfl

@[simp] theorem State.setRx_feed (n : Role) (r : RxSlot) :
    (s.setRx n r).feed = s.feed := by cases n <;> rfl

@[simp] theorem State.setRx_turn (n : Role) (r : RxSlot) :
    (s.setRx n r).turn = s.turn := by cases n <;> rfl

@[simp] theorem State.setRx_free (n : Role) (r : RxSlot) :
    (s.setRx n r).free = s.free := by cases n <;> rfl

@[simp] theorem State.setPhase_gear (n : Role) (p : Phase) :
    (s.setPhase n p).gear = s.gear := by cases n <;> rfl

@[simp] theorem State.setPhase_ind (n : Role) (p : Phase) :
    (s.setPhase n p).ind = s.ind := by cases n <;> rfl

@[simp] theorem State.setPhase_mem (n : Role) (p : Phase) :
    (s.setPhase n p).mem = s.mem := by cases n <;> rfl

@[simp] theorem State.setPhase_feed (n : Role) (p : Phase) :
    (s.setPhase n p).feed = s.feed := by cases n <;> rfl

@[simp] theorem State.setPhase_turn (n : Role) (p : Phase) :
    (s.setPhase n p).turn = s.turn := by cases n <;> rfl

@[simp] theorem State.setPhase_free (n : Role) (p : Phase) :
    (s.setPhase n p).free = s.free := by cases n <;> rfl

@[simp] theorem State.setC_gear (r : ConsumerNode) :
    (s.setC r).gear = s.gear := rfl

@[simp] theorem State.setC_ind (r : ConsumerNode) :
    (s.setC r).ind = s.ind := rfl

@[simp] theorem State.setC_mem (r : ConsumerNode) :
    (s.setC r).mem = s.mem := rfl

@[simp] theorem State.setC_feed (r : ConsumerNode) :
    (s.setC r).feed = s.feed := rfl

@[simp] theorem State.setC_turn (r : ConsumerNode) :
    (s.setC r).turn = s.turn := rfl

@[simp] theorem State.setC_free (r : ConsumerNode) :
    (s.setC r).free = s.free := rfl

@[simp] theorem State.setMem_gear (m : Memory) :
    (s.setMem m).gear = s.gear := rfl

@[simp] theorem State.setMem_ind (m : Memory) :
    (s.setMem m).ind = s.ind := rfl

@[simp] theorem State.setMem_mem (m : Memory) :
    (s.setMem m).mem = m := rfl

@[simp] theorem State.setMem_feed (m : Memory) :
    (s.setMem m).feed = s.feed := rfl

@[simp] theorem State.setMem_turn (m : Memory) :
    (s.setMem m).turn = s.turn := rfl

@[simp] theorem State.setMem_free (m : Memory) :
    (s.setMem m).free = s.free := rfl

@[simp] theorem State.setMem_p1 (m : Memory) :
    (s.setMem m).p1 = s.p1 := rfl

@[simp] theorem State.setMem_p2 (m : Memory) :
    (s.setMem m).p2 = s.p2 := rfl

@[simp] theorem State.setMem_c (m : Memory) :
    (s.setMem m).c = s.c := rfl

@[simp] theorem State.setC_p1 (r : ConsumerNode) :
    (s.setC r).p1 = s.p1 := rfl

@[simp] theorem State.setC_p2 (r : ConsumerNode) :
    (s.setC r).p2 = s.p2 := rfl

@[simp] theorem State.setC_c (r : ConsumerNode) :
    (s.setC r).c = r := rfl

@[simp] theorem State.setProd_c (n : Producer) (r : ProducerNode) :
    (s.setProd n r).c = s.c := by cases n <;> rfl

@[simp] theorem State.setProd_prod (n k : Producer) (r : ProducerNode) :
    (s.setProd n r).prod k = if k = n then r else s.prod k := by cases n <;> cases k <;> rfl

@[simp] theorem State.setTx_tx (n k : Role) (t : TxSlot) :
    (s.setTx n t).tx k = if k = n then t else s.tx k := by cases n <;> cases k <;> rfl

@[simp] theorem State.setTx_rx (n k : Role) (t : TxSlot) :
    (s.setTx n t).rx k = s.rx k := by cases n <;> cases k <;> rfl

@[simp] theorem State.setTx_phase (n k : Role) (t : TxSlot) :
    (s.setTx n t).phase k = s.phase k := by cases n <;> cases k <;> rfl

@[simp] theorem State.setRx_tx (n k : Role) (r : RxSlot) :
    (s.setRx n r).tx k = s.tx k := by cases n <;> cases k <;> rfl

@[simp] theorem State.setRx_rx (n k : Role) (r : RxSlot) :
    (s.setRx n r).rx k = if k = n then r else s.rx k := by cases n <;> cases k <;> rfl

@[simp] theorem State.setRx_phase (n k : Role) (r : RxSlot) :
    (s.setRx n r).phase k = s.phase k := by cases n <;> cases k <;> rfl

@[simp] theorem State.setPhase_tx (n k : Role) (p : Phase) :
    (s.setPhase n p).tx k = s.tx k := by cases n <;> cases k <;> rfl

@[simp] theorem State.setPhase_rx (n k : Role) (p : Phase) :
    (s.setPhase n p).rx k = s.rx k := by cases n <;> cases k <;> rfl

@[simp] theorem State.setPhase_phase (n k : Role) (p : Phase) :
    (s.setPhase n p).phase k = if k = n then p else s.phase k := by cases n <;> cases k <;> rfl

@[simp] theorem State.setMem_tx (m : Memory) (k : Role) :
    (s.setMem m).tx k = s.tx k := by cases k <;> rfl

@[simp] theorem State.setProd_tx (n : Producer) (k : Role) (r : ProducerNode) :
    (s.setProd n r).tx k = if k = n.role then r.tx else s.tx k := by cases n <;> cases k <;> rfl

@[simp] theorem State.setC_tx (r : ConsumerNode) (k : Role) :
    (s.setC r).tx k = if k = .c then r.tx else s.tx k := by cases k <;> rfl

@[simp] theorem State.setMem_rx (m : Memory) (k : Role) :
    (s.setMem m).rx k = s.rx k := by cases k <;> rfl

@[simp] theorem State.setProd_rx (n : Producer) (k : Role) (r : ProducerNode) :
    (s.setProd n r).rx k = if k = n.role then r.rx else s.rx k := by cases n <;> cases k <;> rfl

@[simp] theorem State.setC_rx (r : ConsumerNode) (k : Role) :
    (s.setC r).rx k = if k = .c then r.rx else s.rx k := by cases k <;> rfl

@[simp] theorem State.setMem_phase (m : Memory) (k : Role) :
    (s.setMem m).phase k = s.phase k := by cases k <;> rfl

@[simp] theorem State.setProd_phase (n : Producer) (k : Role) (r : ProducerNode) :
    (s.setProd n r).phase k = if k = n.role then r.phase else s.phase k := by cases n <;> cases k <;> rfl

@[simp] theorem State.setC_phase (r : ConsumerNode) (k : Role) :
    (s.setC r).phase k = if k = .c then r.phase else s.phase k := by cases k <;> rfl

@[simp] theorem State.setMem_prod (m : Memory) (k : Producer) :
    (s.setMem m).prod k = s.prod k := by cases k <;> rfl

@[simp] theorem State.setC_prod (r : ConsumerNode) (k : Producer) :
    (s.setC r).prod k = s.prod k := by cases k <;> rfl

@[simp] theorem State.setTx_prod_kev (n : Role) (t : TxSlot) (k : Producer) :
    ((s.setTx n t).prod k).kev = (s.prod k).kev := by cases n <;> cases k <;> rfl

@[simp] theorem State.setRx_prod_kev (n : Role) (r : RxSlot) (k : Producer) :
    ((s.setRx n r).prod k).kev = (s.prod k).kev := by cases n <;> cases k <;> rfl

@[simp] theorem State.setPhase_prod_kev (n : Role) (p : Phase) (k : Producer) :
    ((s.setPhase n p).prod k).kev = (s.prod k).kev := by cases n <;> cases k <;> rfl

@[simp] theorem State.setTx_prod_num (n : Role) (t : TxSlot) (k : Producer) :
    ((s.setTx n t).prod k).num = (s.prod k).num := by cases n <;> cases k <;> rfl

@[simp] theorem State.setRx_prod_num (n : Role) (r : RxSlot) (k : Producer) :
    ((s.setRx n r).prod k).num = (s.prod k).num := by cases n <;> cases k <;> rfl

@[simp] theorem State.setPhase_prod_num (n : Role) (p : Phase) (k : Producer) :
    ((s.setPhase n p).prod k).num = (s.prod k).num := by cases n <;> cases k <;> rfl

@[simp] theorem State.setTx_prod_armed (n : Role) (t : TxSlot) (k : Producer) :
    ((s.setTx n t).prod k).armed = (s.prod k).armed := by cases n <;> cases k <;> rfl

@[simp] theorem State.setRx_prod_armed (n : Role) (r : RxSlot) (k : Producer) :
    ((s.setRx n r).prod k).armed = (s.prod k).armed := by cases n <;> cases k <;> rfl

@[simp] theorem State.setPhase_prod_armed (n : Role) (p : Phase) (k : Producer) :
    ((s.setPhase n p).prod k).armed = (s.prod k).armed := by cases n <;> cases k <;> rfl

@[simp] theorem State.setTx_c_msg (n : Role) (t : TxSlot) :
    (s.setTx n t).c.msg = s.c.msg := by cases n <;> rfl

@[simp] theorem State.setRx_c_msg (n : Role) (r : RxSlot) :
    (s.setRx n r).c.msg = s.c.msg := by cases n <;> rfl

@[simp] theorem State.setPhase_c_msg (n : Role) (p : Phase) :
    (s.setPhase n p).c.msg = s.c.msg := by cases n <;> rfl

@[simp] theorem State.setTx_c_mode (n : Role) (t : TxSlot) :
    (s.setTx n t).c.mode = s.c.mode := by cases n <;> rfl

@[simp] theorem State.setRx_c_mode (n : Role) (r : RxSlot) :
    (s.setRx n r).c.mode = s.c.mode := by cases n <;> rfl

@[simp] theorem State.setPhase_c_mode (n : Role) (p : Phase) :
    (s.setPhase n p).c.mode = s.c.mode := by cases n <;> rfl

@[simp] theorem State.setTx_c_tick (n : Role) (t : TxSlot) :
    (s.setTx n t).c.tick = s.c.tick := by cases n <;> rfl

@[simp] theorem State.setRx_c_tick (n : Role) (r : RxSlot) :
    (s.setRx n r).c.tick = s.c.tick := by cases n <;> rfl

@[simp] theorem State.setPhase_c_tick (n : Role) (p : Phase) :
    (s.setPhase n p).c.tick = s.c.tick := by cases n <;> rfl

@[simp] theorem State.setTx_c_tickIf (n : Role) (t : TxSlot) :
    (s.setTx n t).c.tickIf = s.c.tickIf := by cases n <;> rfl

@[simp] theorem State.setRx_c_tickIf (n : Role) (r : RxSlot) :
    (s.setRx n r).c.tickIf = s.c.tickIf := by cases n <;> rfl

@[simp] theorem State.setPhase_c_tickIf (n : Role) (p : Phase) :
    (s.setPhase n p).c.tickIf = s.c.tickIf := by cases n <;> rfl

@[simp] theorem State.setTx_c_lampL (n : Role) (t : TxSlot) :
    (s.setTx n t).c.lampL = s.c.lampL := by cases n <;> rfl

@[simp] theorem State.setRx_c_lampL (n : Role) (r : RxSlot) :
    (s.setRx n r).c.lampL = s.c.lampL := by cases n <;> rfl

@[simp] theorem State.setPhase_c_lampL (n : Role) (p : Phase) :
    (s.setPhase n p).c.lampL = s.c.lampL := by cases n <;> rfl

@[simp] theorem State.setTx_c_lampR (n : Role) (t : TxSlot) :
    (s.setTx n t).c.lampR = s.c.lampR := by cases n <;> rfl

@[simp] theorem State.setRx_c_lampR (n : Role) (r : RxSlot) :
    (s.setRx n r).c.lampR = s.c.lampR := by cases n <;> rfl

@[simp] theorem State.setPhase_c_lampR (n : Role) (p : Phase) :
    (s.setPhase n p).c.lampR = s.c.lampR := by cases n <;> rfl

@[simp] theorem State.setTx_c_out (n : Role) (t : TxSlot) :
    (s.setTx n t).c.out = s.c.out := by cases n <;> rfl

@[simp] theorem State.setRx_c_out (n : Role) (r : RxSlot) :
    (s.setRx n r).c.out = s.c.out := by cases n <;> rfl

@[simp] theorem State.setPhase_c_out (n : Role) (p : Phase) :
    (s.setPhase n p).c.out = s.c.out := by cases n <;> rfl

@[simp] theorem State.advance_gear (n : Role) :
    (s.advance n).gear = s.gear := by cases n <;> rfl

@[simp] theorem State.emit_gear (e : List DispEvent) :
    (s.emit e).gear = s.gear := rfl

@[simp] theorem State.advance_ind (n : Role) :
    (s.advance n).ind = s.ind := by cases n <;> rfl

@[simp] theorem State.emit_ind (e : List DispEvent) :
    (s.emit e).ind = s.ind := rfl

@[simp] theorem State.advance_mem (n : Role) :
    (s.advance n).mem = s.mem := by cases n <;> rfl

@[simp] theorem State.emit_mem (e : List DispEvent) :
    (s.emit e).mem = s.mem := rfl

@[simp] theorem State.advance_feed (n : Role) :
    (s.advance n).feed = s.feed := by cases n <;> rfl

@[simp] theorem State.emit_feed (e : List DispEvent) :
    (s.emit e).feed = s.feed := rfl

@[simp] theorem State.advance_turn (n : Role) :
    (s.advance n).turn = s.turn := by cases n <;> rfl

@[simp] theorem State.emit_turn (e : List DispEvent) :
    (s.emit e).turn = s.turn := rfl

@[simp] theorem State.advance_free (n : Role) :
    (s.advance n).free = s.free := by cases n <;> rfl

@[simp] theorem State.emit_free (e : List DispEvent) :
    (s.emit e).free = s.free := rfl

@[simp] theorem State.emit_out (e : List DispEvent) :
    (s.emit e).c.out = s.c.out ++ e := rfl

@[simp] theorem State.advance_out (n : Role) :
    (s.advance n).c.out = s.c.out := by cases n <;> rfl

@[simp] theorem State.advance_tx (n k : Role) :
    (s.advance n).tx k = s.tx k := by cases n <;> cases k <;> rfl

@[simp] theorem State.advance_rx (n k : Role) :
    (s.advance n).rx k = s.rx k := by cases n <;> cases k <;> rfl

@[simp] theorem State.advance_phase (n k : Role) :
    (s.advance n).phase k = if k = n then nextPhase n (s.phase n) else s.phase k := by cases n <;> cases k <;> rfl

@[simp] theorem andThen_next (f : State → State) : andThen (.next s) f = .next (f s) := rfl

@[simp] theorem andThen_fault (r : Fault) (f : State → State) : andThen (.fault r) f = .fault r := rfl

@[simp] theorem andThen_refused (r : Refusal) (f : State → State) : andThen (.refused r) f = .refused r := rfl

@[simp] theorem withRead_ok {α : Type} (v : α) (f : α → State) : withRead (.ok v) f = .next (f v) := rfl

@[simp] theorem withRead_error {α : Type} (e : Fault) (f : α → State) : withRead (.error e) f = .fault e := rfl

/-- What a continued meaning answers: its next state is the continuation's of the first one's. -/
theorem andThen_eq_next {o : Result} {f : State → State} {t : State} :
    andThen o f = .next t ↔ ∃ u, o = .next u ∧ t = f u := by
  cases o <;> simp [andThen, eq_comm]

/-- What a meaning that reads answers: its next state is the continuation's of the value read. -/
theorem withRead_eq_next {α : Type} {x : Except Fault α} {f : α → State} {t : State} :
    withRead x f = .next t ↔ ∃ v, x = .ok v ∧ t = f v := by
  cases x <;> simp [withRead, eq_comm]

/-- A phase after an operation lies in the node's cycle (R29). -/
theorem nextPhase_lt (n : Role) (p : Phase) : (nextPhase n p).toNat < cycleLen n := by
  have h : (p.toNat + 1) % cycleLen n < cycleLen n := Nat.mod_lt _ (by cases n <;> decide)
  have h5 : cycleLen n ≤ 5 := by cases n <;> decide
  simp only [nextPhase, BitVec.toNat_ofNat]
  rw [Nat.mod_eq_of_lt (by omega)]
  exact h

end Sys2Proof.Machine
end

