-- ==== Sys2Proof/Laws/Ops.lean ====
section
/-! SUPPORT. For each shared operation, once, everything it can do: if it answers a next state, which one. -/

namespace Sys2Proof.Machine

/-- What the transmit primitive answers (R141). -/
theorem transmit_eq_next {n : Role} {t : Transmission} {s u : State} :
    transmit n t s = .next u ↔
      ∃ id, idOf t.1 = some id ∧ t.2.2 ≠ 0 ∧ t.2.2 ≤ 8 ∧ t.2.1.length = t.2.2 ∧
        u = (s.setTx n { id := id, len := BitVec.ofNat 4 t.2.2, req := true }).setMem
          (memWrite (txSlot n) t.2.1 s.mem) := by
  unfold transmit
  cases h : idOf t.1 with
  | none => simp
  | some id =>
    by_cases hc : t.2.2 = 0 ∨ Config.lenMax < t.2.2 ∨ t.2.1.length ≠ t.2.2
    · simp only [hc, if_true, reduceCtorEq, Option.some.injEq, false_iff, not_exists]
      rintro i ⟨-, h0, h8, hl, -⟩
      rcases hc with hc | hc | hc
      · exact h0 hc
      · rw [lenMax_eq] at hc; omega
      · exact hc hl
    · simp only [hc, if_false, Host.Outcome.next.injEq, Option.some.injEq]
      rw [not_or, not_or, not_lt, lenMax_eq, not_not] at hc
      constructor
      · rintro rfl; exact ⟨id, rfl, hc.1, hc.2.1, hc.2.2, rfl⟩
      · rintro ⟨i, rfl, -, -, -, rfl⟩; rfl

/-- What a delivery answers (R143): the sender has a pending request and its staged bytes are there. -/
theorem deliver_eq_next {src : Role} {s u : State} :
    deliver src s = .next u ↔
      (s.tx src).req = true ∧ ∃ bytes, memRead (txSlot src) (s.tx src).len.toNat s.mem = .ok bytes ∧
        u = ((receivers src).foldl (putFrame (s.tx src).id (s.tx src).len bytes) s).setTx src
          { s.tx src with req := false } := by
  unfold deliver
  cases (s.tx src).req <;> simp [withRead_eq_next]

/-- What a poll of an unread frame answers (R142). -/
theorem takeFrame_eq_next {s u : State} :
    takeFrame s = .next u ↔
      ∃ bytes, memRead .crx s.c.rx.len.toNat s.mem = .ok bytes ∧
        u = (s.setC { s.c with msg := { kind := kindOf s.c.rx.id, len := s.c.rx.len }
                               rx := { s.c.rx with full := false } }).setMem (memWrite .cmsg bytes s.mem) := by
  simp [takeFrame, withRead_eq_next]

/-- What a message byte is, when it is read (R237). -/
theorem messageByte_eq_ok {s : State} {v : Byte} :
    messageByte s = .ok v ↔ readByte s.mem (slotBase .cmsg) = some v := by
  unfold messageByte
  cases h : readByte s.mem (slotBase .cmsg) <;> simp

@[simp] theorem gearClass_sentinel_iff (v : Byte) : gearClass v = .sentinel ↔ v = 8 := by
  revert v; decide

@[simp] theorem gearClass_display_iff (v : Byte) : gearClass v = .display ↔ v.toNat ≤ 7 := by
  revert v; decide

@[simp] theorem gearClass_outOfRange_iff (v : Byte) : gearClass v = .outOfRange ↔ 9 ≤ v.toNat := by
  revert v; decide

@[simp] theorem indOf_none_iff (v : Byte) : indOf v = none ↔ 4 ≤ v.toNat := by
  revert v; decide

/-- A GEAR byte is in one class (R107). -/
theorem gearClass_cases (v : Byte) :
    (v = 8 ∧ gearClass v = .sentinel) ∨ (v.toNat ≤ 7 ∧ gearClass v = .display) ∨
      (9 ≤ v.toNat ∧ gearClass v = .outOfRange) := by
  revert v; decide

@[simp] theorem noMessage_mem (s : State) : (noMessage s).mem = clearSlot .cmsg s.mem := rfl

@[simp] theorem noMessage_msg (s : State) :
    (noMessage s).c.msg = { kind := Config.freeKind s.free, len := 0 } := rfl

end Sys2Proof.Machine
end

