-- ==== Sys2Proof/Laws/Exec.lean ====
section
/-! SUPPORT. What each family of meanings can do: the handlers of `C`, the poll and its arms, the key reads, the
transmissions. Each says once everything a next state can differ in. -/

namespace Sys2Proof.Machine

/-- Everything a handler of `C` can do (R221 to R229): it touches the mode, the lamps and the output trace only; the
trace grows at its end; in COLLISION the lamps stay; the mode moves only by a GEAR message, to COLLISION exactly if its
first byte is 8. -/
def HandlerEffect (s t : State) : Prop :=
  ∃ (mode : Mode) (l r : Bool) (events : List DispEvent),
    t = s.setC { s.c with mode := mode, lampL := l, lampR := r, out := s.c.out ++ events } ∧
    (s.c.mode = .collision → l = s.c.lampL ∧ r = s.c.lampR) ∧
    (mode ≠ s.c.mode → s.c.msg.len ≠ 0 ∧ s.c.msg.kind = .gear ∧
      ∃ v, readByte s.mem (slotBase .cmsg) = some v ∧ (mode = .collision ↔ v = 8))

theorem HandlerEffect.refl (s : State) : HandlerEffect s s :=
  ⟨s.c.mode, s.c.lampL, s.c.lampR, [], by simp [State.setC], fun _ => ⟨rfl, rfl⟩, fun h => absurd rfl h⟩

theorem HandlerEffect.ofEmit (s : State) (events : List DispEvent) : HandlerEffect s (s.emit events) :=
  ⟨s.c.mode, s.c.lampL, s.c.lampR, events, rfl, fun _ => ⟨rfl, rfl⟩, fun h => absurd rfl h⟩

theorem gearNormal_effect {s : State} {v : Byte} (hl : s.c.msg.len ≠ 0)
    (hk : s.c.msg.kind = .gear) (hv : readByte s.mem (slotBase .cmsg) = some v) :
    HandlerEffect s (gearNormal v s) := by
  rcases gearClass_cases v with ⟨h, e⟩ | ⟨-, e⟩ | ⟨-, e⟩ <;> simp only [gearNormal, e]
  · exact ⟨.collision, s.c.lampL, s.c.lampR, alarmEvents, rfl, fun _ => ⟨rfl, rfl⟩,
      fun _ => ⟨hl, hk, v, hv, by simp [h]⟩⟩
  · exact .ofEmit _ _
  · exact .refl _

theorem gearCollision_effect {s : State} {r : AlarmRerender} {v : Byte} (hl : s.c.msg.len ≠ 0)
    (hk : s.c.msg.kind = .gear) (hv : readByte s.mem (slotBase .cmsg) = some v) :
    HandlerEffect s (gearCollision r v s) := by
  have leave : v ≠ 8 → HandlerEffect s ((setMode .normal s).emit (.clear :: drawLabels)) := fun h8 =>
    ⟨.normal, s.c.lampL, s.c.lampR, _, rfl, fun _ => ⟨rfl, rfl⟩,
      fun _ => ⟨hl, hk, v, hv, ⟨fun e => (by cases e), fun e => absurd e h8⟩⟩⟩
  rcases gearClass_cases v with ⟨-, e⟩ | ⟨h, e⟩ | ⟨h, e⟩ <;> simp only [gearCollision, e]
  · exact .ofEmit _ _
  · exact leave (by rintro rfl; simp at h)
  · exact leave (by rintro rfl; simp at h)

theorem gearHandler_effect {s : State} {v : Byte} (hl : s.c.msg.len ≠ 0)
    (hk : s.c.msg.kind = .gear) (hv : readByte s.mem (slotBase .cmsg) = some v) :
    HandlerEffect s (gearHandler v s) := by
  cases hm : s.c.mode <;> simp only [gearHandler, hm]
  · exact gearNormal_effect hl hk hv
  · exact gearCollision_effect hl hk hv

theorem indHandler_effect {s : State} {v : Byte} (hm : s.c.mode = .normal) : HandlerEffect s (indHandler v s) := by
  simp only [indHandler]
  split
  · rename_i i _
    exact ⟨s.c.mode, (blink i s.c.tick).1, (blink i s.c.tick).2, markerEvents (blink i s.c.tick), rfl,
      fun h => (by rw [hm] at h; cases h), fun h => absurd rfl h⟩
  · exact .refl _

/-- Routing, in either mode (R221). -/
theorem route_effect {s t : State} (h : route s = .next t) : HandlerEffect s t := by
  simp only [route] at h
  split at h
  · cases h; exact .refl _
  · rename_i hl
    cases hm : s.c.mode <;> cases hk : s.c.msg.kind <;>
      simp only [hm, hk, routeNormal, routeCollision, printMessage, withRead_eq_next, messageByte_eq_ok,
        Host.Outcome.next.injEq] at h
    · obtain ⟨v, hv, rfl⟩ := h; exact gearNormal_effect hl hk hv
    · obtain ⟨v, hv, rfl⟩ := h; exact .ofEmit _ _
    · obtain ⟨v, hv, rfl⟩ := h; exact .ofEmit _ _
    · obtain ⟨v, hv, rfl⟩ := h; exact indHandler_effect hm
    · subst h; exact .refl _
    · obtain ⟨v, hv, rfl⟩ := h; exact gearCollision_effect hl hk hv
    · subst h; exact .refl _
    · subst h; exact .refl _
    · subst h; exact .refl _
    · subst h; exact .refl _

theorem hasMessage_iff (k : Kind) (s : State) : hasMessage k s = true ↔ s.c.msg.len ≠ 0 ∧ s.c.msg.kind = k := by
  rw [hasMessage, Bool.and_eq_true, decide_eq_true_iff, decide_eq_true_iff]

/-- What a GEAR byte row answers on a message byte that is there. -/
theorem gearByteArm_of_byte {s : State} {v w : Byte} (h : messageByte s = .ok v) :
    gearByteArm w s =
      if (s.c.msg.len ≠ 0 ∧ s.c.msg.kind = .gear) ∧ v = w then .next (gearHandler w s) else .next s := by
  simp only [gearByteArm, hasMessage_iff, h, withRead]
  by_cases h1 : s.c.msg.len ≠ 0 ∧ s.c.msg.kind = .gear
  · by_cases h2 : v = w
    · rw [if_pos h1, if_pos h2, if_pos ⟨h1, h2⟩]
    · rw [if_pos h1, if_neg h2, if_neg fun h => h2 h.2]
  · rw [if_neg h1, if_neg fun h => h1 h.1]

/-- What an INDICATOR byte row answers on a message byte that is there. -/
theorem indByteArm_of_byte {s : State} {v w : Byte} (h : messageByte s = .ok v) :
    indByteArm w s =
      if (s.c.mode = .normal ∧ s.c.msg.len ≠ 0 ∧ s.c.msg.kind = .indicator) ∧ v = w then .next (indHandler w s)
      else .next s := by
  simp only [indByteArm, hasMessage_iff, h, withRead]
  by_cases h1 : s.c.mode = .normal ∧ s.c.msg.len ≠ 0 ∧ s.c.msg.kind = .indicator
  · by_cases h2 : v = w
    · rw [if_pos h1, if_pos h2, if_pos ⟨h1, h2⟩]
    · rw [if_pos h1, if_neg h2, if_neg fun h => h2 h.2]
  · rw [if_neg h1, if_neg fun h => h1 h.1]

theorem gearByteArm_effect {s t : State} {v : Byte} (h : gearByteArm v s = .next t) : HandlerEffect s t := by
  simp only [gearByteArm] at h
  split at h
  · rename_i hm
    rw [hasMessage_iff] at hm
    obtain ⟨b, hb, rfl⟩ := withRead_eq_next.1 h
    split
    · subst b; exact gearHandler_effect hm.1 hm.2 (messageByte_eq_ok.1 hb)
    · exact .refl _
  · cases h; exact .refl _

theorem indByteArm_effect {s t : State} {v : Byte} (h : indByteArm v s = .next t) : HandlerEffect s t := by
  simp only [indByteArm] at h
  split at h
  · rename_i hm
    obtain ⟨b, hb, rfl⟩ := withRead_eq_next.1 h
    split
    · exact indHandler_effect hm.1
    · exact .refl _
  · cases h; exact .refl _

/-- The instructions that run a handler of `C`, less `DISPATCH`, whose phase moves too. -/
theorem handler_rows_effect {i : Instr} {s t : State} (h : exec i s = .next t)
    (hi : i = .modeNormal ∨ i = .modeCollision ∨ (∃ v, i = .gearbyteDisplay v) ∨ i = .gearbyteSentinel ∨
      (∃ v, i = .gearbyteOutOfRange v) ∨ i = .indOff ∨ i = .indLeft ∨ i = .indRight ∨ i = .indHazard ∨
      ∃ v, i = .indIgnored v) : HandlerEffect s t := by
  have skip : Host.Outcome.next (φ := Fault) (ρ := Refusal) s = .next t → HandlerEffect s t := by
    intro e; cases e; exact .refl _
  rcases hi with rfl | rfl | ⟨v, rfl⟩ | rfl | ⟨v, rfl⟩ | rfl | rfl | rfl | rfl | ⟨v, rfl⟩
  · simp only [exec, execModeNormal] at h; split at h
    · exact route_effect h
    · exact skip h
  · simp only [exec, execModeCollision] at h; split at h
    · exact route_effect h
    · exact skip h
  · simp only [exec, execGearbyteDisplay] at h; split at h
    · exact gearByteArm_effect h
    · exact skip h
  · exact gearByteArm_effect h
  · simp only [exec, execGearbyteOutOfRange] at h; split at h
    · exact gearByteArm_effect h
    · exact skip h
  · exact indByteArm_effect h
  · exact indByteArm_effect h
  · exact indByteArm_effect h
  · exact indByteArm_effect h
  · simp only [exec, execIndIgnored] at h; split at h
    · exact indByteArm_effect h
    · exact skip h

/-- `DISPATCH` is a handler's effect and the phase (R221). -/
theorem dispatch_effect {s t : State} (h : exec .dispatch s = .next t) :
    ∃ u, HandlerEffect s u ∧ t = u.setPhase .c 0 := by
  obtain ⟨u, hu, rfl⟩ := andThen_eq_next.1 h
  exact ⟨u, route_effect hu, rfl⟩

/-- Everything a poll or one of its arms can do, less the phase (R142): nothing; take the unread frame; report "no
message", for a frame of length 0 by taking it. -/
def PollEffect (s t : State) : Prop :=
  t = s ∨ t = noMessage s ∨ ∃ bytes, memRead .crx s.c.rx.len.toNat s.mem = .ok bytes ∧ s.c.rx.full = true ∧
    t = (s.setC { s.c with msg := { kind := kindOf s.c.rx.id, len := s.c.rx.len }
                           rx := { s.c.rx with full := false } }).setMem (memWrite .cmsg bytes s.mem)

theorem frameArm_effect {k : Kind} {s t : State} (h : frameArm k s = .next t) : PollEffect s t := by
  simp only [frameArm] at h
  split at h
  · obtain ⟨bytes, hb, rfl⟩ := takeFrame_eq_next.1 h
    exact .inr (.inr ⟨bytes, hb, ‹_ ∧ _›.1, rfl⟩)
  · cases h; exact .inl rfl

/-- The rows of the kind map. -/
theorem frame_rows_effect {i : Instr} {s t : State} (h : exec i s = .next t)
    (hi : i = .frameGear ∨ i = .frameSpeed ∨ i = .frameRpm ∨ i = .frameIndicator ∨ (∃ id, i = .frameUnknown id) ∨
      i = .frameNone) : PollEffect s t := by
  rcases hi with rfl | rfl | rfl | rfl | ⟨id, rfl⟩ | rfl
  · exact frameArm_effect h
  · exact frameArm_effect h
  · exact frameArm_effect h
  · exact frameArm_effect h
  · simp only [exec, execFrameUnknown] at h; split at h
    · exact frameArm_effect h
    · cases h; exact .inl rfl
  · simp only [exec, execFrameNone] at h; split at h
    · split at h
      · obtain ⟨bytes, hb, rfl⟩ := takeFrame_eq_next.1 h
        exact .inr (.inr ⟨bytes, hb, ‹_›, rfl⟩)
      · cases h; exact .inl rfl
    · cases h; exact .inr (.inl rfl)

/-- `CAN.RX` is a poll's effect and the phase (R142). -/
theorem canRx_effect {s t : State} (h : exec .canRx s = .next t) :
    ∃ u, PollEffect s u ∧ t = u.advance .c := by
  simp only [exec, execCanRx] at h
  split at h
  · obtain ⟨u, hu, rfl⟩ := andThen_eq_next.1 h
    obtain ⟨bytes, hb, rfl⟩ := takeFrame_eq_next.1 hu
    exact ⟨_, .inr (.inr ⟨bytes, hb, ‹_›, rfl⟩), rfl⟩
  · cases h; exact ⟨_, .inr (.inl rfl), rfl⟩

/-- Everything a key read can do, less the phase (R181, R182): the latch, the event, the count of free values. -/
theorem edgeRead_effect (n : Producer) (m : KeyMask) (s : State) :
    ∃ (kev : KeyEvent) (f : Nat), edgeRead n m s =
      { s.setProd n { s.prod n with armed := decide (m = Config.allReleased), kev := kev } with free := f } := by
  unfold edgeRead edge
  by_cases hm : m = Config.allReleased
  · exact ⟨⟨false, Config.freeMask s.free⟩, s.free + 1, by cases n <;> simp [hm] <;> rfl⟩
  · cases ha : (s.prod n).armed
    · exact ⟨⟨false, Config.freeMask s.free⟩, s.free + 1, by cases n <;> simp [hm] <;> rfl⟩
    · exact ⟨⟨true, m⟩, s.free, by cases n <;> simp [hm] <;> rfl⟩

/-- Everything a transmission of a producer can do (R141, R197 to R200). -/
theorem tx_effect {n : Producer} {x : Transmission} {s t : State}
    (h : andThen (transmit n.role x s) (fun u => u.advance n.role) = .next t) :
    ∃ id, idOf x.1 = some id ∧ x.2.2 ≠ 0 ∧ x.2.2 ≤ 8 ∧ x.2.1.length = x.2.2 ∧
      t = ((s.setTx n.role { id := id, len := BitVec.ofNat 4 x.2.2, req := true }).setMem
        (memWrite (txSlot n.role) x.2.1 s.mem)).advance n.role := by
  obtain ⟨u, hu, rfl⟩ := andThen_eq_next.1 h
  obtain ⟨id, h1, h2, h3, h4, rfl⟩ := transmit_eq_next.1 hu
  exact ⟨id, h1, h2, h3, h4, rfl⟩

/-! ### Every instruction at once -/

/-- The instructions that read keys or take a sample, on a producer. -/
def isInputOf (n : Producer) (i : Instr) : Prop :=
  (∃ m, i = .keyLevel n m) ∨ (∃ m, i = .keyEdge n m) ∨ (∃ v, i = .sample n v) ∨ i = .keyAllReleased n

/-- The instructions that stage a frame on a node. -/
def isTransmitOf (n : Role) (i : Instr) : Prop :=
  (∃ k l p, i = .canTx n k l p) ∨ (n = .p1 ∧ (i = .txGear ∨ i = .txSpeed)) ∨
    (n = .p2 ∧ (i = .txRpm ∨ i = .txInd))

/-- The instructions that route a message or handle a GEAR byte: those that can move the mode. -/
def isModeHandler (i : Instr) : Prop :=
  i = .dispatch ∨ i = .modeNormal ∨ i = .modeCollision ∨ (∃ v, i = .gearbyteDisplay v) ∨ i = .gearbyteSentinel ∨
    ∃ v, i = .gearbyteOutOfRange v

/-- The arms of `H.IND`. -/
def isIndArm (i : Instr) : Prop :=
  i = .indOff ∨ i = .indLeft ∨ i = .indRight ∨ i = .indHazard ∨ ∃ v, i = .indIgnored v

/-- Everything an instruction can do, one case a family: which instructions are in it and what the next state is. -/
inductive Effect (i : Instr) (s : State) : State → Prop
  /-- A key read or a sample: one producer's registers other than its slots; `armed` by the STATE_CHANGE reads only. -/
  | input (n : Producer) (r : ProducerNode) (f : Nat) (hi : isInputOf n i) (htx : r.tx = (s.prod n).tx)
      (hrx : r.rx = (s.prod n).rx)
      (ha : ((∃ m, i = .keyLevel n m) ∨ ∃ v, i = .sample n v) → r.armed = (s.prod n).armed) :
      Effect i s { s.setProd n r with free := f }
  /-- `GEAR.STEP` and its arms: the gear and the phase. -/
  | gear (g : Gear) (p : Phase)
      (hi : i = .gearStep ∨ i = .keyP1Increment ∨ i = .keyP1Decrement ∨ i = .keyP1Collision) :
      Effect i s { s with gear := g, p1 := { s.p1 with phase := p } }
  /-- `IND.STEP` and its arms: the indicator and the phase. -/
  | ind (x : Ind) (p : Phase)
      (hi : i = .indStep ∨ i = .keyP2Left ∨ i = .keyP2Right ∨ i = .keyP2Hazard ∨ i = .keyP2Off) :
      Effect i s { s with ind := x, p2 := { s.p2 with phase := p } }
  /-- A transmission: one node's transmit slot, its payload bytes and the phase. -/
  | transmit (n : Role) (id : Ident) (len : Len) (p : Phase) (m : Memory) (bytes : List Byte) (hi : isTransmitOf n i)
      (hm : SlotWritten s.mem m (txSlot n) bytes) :
      Effect i s (((s.setTx n { id := id, len := len, req := true }).setMem m).setPhase n p)
  /-- `CAN.RX` and its arms. -/
  | poll (u : State) (p : Phase) (hi : isPoll i) (hu : PollEffect s u) : Effect i s (u.setPhase .c p)
  /-- `DISPATCH` and its arms; the mode by the GEAR rows and the routing only. -/
  | handle (u : State) (p : Phase) (hi : isModeHandler i ∨ isIndArm i) (hu : HandlerEffect s u)
      (hm : u.c.mode ≠ s.c.mode → isModeHandler i) : Effect i s (u.setPhase .c p)
  | bus (src : Role) (t : State) (hi : i = .busDeliver src) (ht : deliver src s = .next t) : Effect i s t
  | timer (hi : i = .timerFire) : Effect i s (raiseTick s)
  | isr (hi : i = .tickIsr) (hf : s.c.tickIf = true) : Effect i s (takeTickInterrupt s)
  | reset (n : Role) (hi : i = .reset n) : Effect i s (resetNode n s)

theorem setPhase_phase (s : State) (n : Role) : s.setPhase n (s.phase n) = s := by cases n <;> rfl

/-- The INDICATOR byte rows leave the mode. -/
theorem indByteArm_mode {s t : State} {v : Byte} (h : indByteArm v s = .next t) : t.c.mode = s.c.mode := by
  simp only [indByteArm] at h
  split at h
  · obtain ⟨b, -, rfl⟩ := withRead_eq_next.1 h
    split
    · simp only [indHandler]; split <;> rfl
    · rfl
  · cases h; rfl

/-- What a next state of an instruction is. -/
theorem exec_effect {i : Instr} {s t : State} (h : exec i s = .next t) : Effect i s t := by
  have hp : isPoll i → PollEffect s t → Effect i s t := fun hi hu => by
    rw [← setPhase_phase t .c]; exact .poll t _ hi hu
  have hh : isModeHandler i → HandlerEffect s t → Effect i s t := fun hi hu => by
    rw [← setPhase_phase t .c]; exact .handle t _ (.inl hi) hu fun _ => hi
  have ha : isIndArm i → HandlerEffect s t → t.c.mode = s.c.mode → Effect i s t := fun hi hu hm => by
    rw [← setPhase_phase t .c]; exact .handle t _ (.inr hi) hu fun hne => absurd hm hne
  have edge : ∀ (n : Producer) (m : KeyMask) (u : State → State),
      (∀ (r : ProducerNode) (f : Nat), ∃ r' : ProducerNode, r'.tx = r.tx ∧ r'.rx = r.rx ∧
        u { s.setProd n r with free := f } = { s.setProd n r' with free := f }) →
      t = u (edgeRead n m s) → isInputOf n i →
      (((∃ m, i = .keyLevel n m) ∨ ∃ v, i = .sample n v) → False) → Effect i s t := fun n m u hu ht hi hn => by
    obtain ⟨kev, f, e⟩ := edgeRead_effect n m s
    rw [e] at ht
    obtain ⟨r', h1, h2, h3⟩ := hu { s.prod n with armed := decide (m = Config.allReleased), kev := kev } f
    rw [h3] at ht
    subst ht
    exact .input n r' f hi h1 h2 fun x => (hn x).elim
  cases i with
  | reserved => cases h
  | keyLevel n m =>
    cases h
    cases n
    · exact .input .p1 { s.p1 with kev := { valid := true, mask := m } } s.free (.inl ⟨m, rfl⟩) rfl rfl fun _ => rfl
    · exact .input .p2 { s.p2 with kev := { valid := true, mask := m } } s.free (.inl ⟨m, rfl⟩) rfl rfl fun _ => rfl
  | keyEdge n m =>
    refine edge n m (fun u => u.advance n.role) (fun r f => ?_) (by cases h; rfl) (.inr (.inl ⟨m, rfl⟩)) (by simp)
    cases n
    · exact ⟨{ r with phase := nextPhase .p1 r.phase }, rfl, rfl, rfl⟩
    · exact ⟨{ r with phase := nextPhase .p2 r.phase }, rfl, rfl, rfl⟩
  | sample n v =>
    simp only [exec, execSample] at h
    split at h
    · cases h
    · cases h
      cases n
      · exact .input .p1 { s.p1 with num := v, phase := nextPhase .p1 s.p1.phase } s.free
          (.inr (.inr (.inl ⟨v, rfl⟩))) rfl rfl fun _ => rfl
      · exact .input .p2 { s.p2 with num := v, phase := nextPhase .p2 s.p2.phase } s.free
          (.inr (.inr (.inl ⟨v, rfl⟩))) rfl rfl fun _ => rfl
  | gearStep => simp only [exec, execGearStep] at h; split at h <;> cases h <;> exact .gear _ _ (by simp)
  | indStep => simp only [exec, execIndStep] at h; split at h <;> cases h <;> exact .ind _ _ (by simp)
  | txGear =>
    obtain ⟨id, -, -, h8, hl, rfl⟩ := tx_effect (n := .p1) (x := mkGear s.gear) h
    exact .transmit .p1 _ _ _ _ _ (.inr (.inl ⟨rfl, .inl rfl⟩)) (slotWritten_memWrite (by omega) _ _)
  | txSpeed =>
    obtain ⟨id, -, -, h8, hl, rfl⟩ := tx_effect (n := .p1) (x := mkSpeed s.p1.num) h
    exact .transmit .p1 _ _ _ _ _ (.inr (.inl ⟨rfl, .inr rfl⟩)) (slotWritten_memWrite (by omega) _ _)
  | txRpm =>
    obtain ⟨id, -, -, h8, hl, rfl⟩ := tx_effect (n := .p2) (x := mkRpm s.p2.num) h
    exact .transmit .p2 _ _ _ _ _ (.inr (.inr ⟨rfl, .inl rfl⟩)) (slotWritten_memWrite (by omega) _ _)
  | txInd =>
    obtain ⟨id, -, -, h8, hl, rfl⟩ := tx_effect (n := .p2) (x := mkInd s.ind) h
    exact .transmit .p2 _ _ _ _ _ (.inr (.inr ⟨rfl, .inr rfl⟩)) (slotWritten_memWrite (by omega) _ _)
  | canRx => obtain ⟨u, hu, rfl⟩ := canRx_effect h; exact .poll u _ (by simp [isPoll]) hu
  | dispatch =>
    obtain ⟨u, hu, rfl⟩ := dispatch_effect h
    exact .handle u _ (.inl (.inl rfl)) hu fun _ => .inl rfl
  | busDeliver src => exact .bus src t rfl h
  | timerFire => cases h; exact .timer rfl
  | tickIsr =>
    simp only [exec, execTickIsr] at h
    split at h <;> cases h
    exact .isr rfl ‹_›
  | reset n => cases h; exact .reset n rfl
  | canTx n k l p =>
    obtain ⟨id, -, -, h8, hl, rfl⟩ := transmit_eq_next.1 h
    rw [← setPhase_phase (State.setMem _ _) n]
    exact .transmit n _ _ _ _ _ (.inl ⟨k, l, p, rfl⟩) (slotWritten_memWrite (by omega) _ _)
  | frameGear => exact hp (by simp [isPoll]) (frame_rows_effect h (by simp))
  | frameSpeed => exact hp (by simp [isPoll]) (frame_rows_effect h (by simp))
  | frameRpm => exact hp (by simp [isPoll]) (frame_rows_effect h (by simp))
  | frameIndicator => exact hp (by simp [isPoll]) (frame_rows_effect h (by simp))
  | frameUnknown id => exact hp (by simp [isPoll]) (frame_rows_effect h (by simp))
  | frameNone => exact hp (by simp [isPoll]) (frame_rows_effect h (by simp))
  | gearbyteDisplay v => exact hh (by simp [isModeHandler]) (handler_rows_effect h (by simp))
  | gearbyteSentinel => exact hh (by simp [isModeHandler]) (handler_rows_effect h (by simp))
  | gearbyteOutOfRange v => exact hh (by simp [isModeHandler]) (handler_rows_effect h (by simp))
  | indOff => exact ha (by simp [isIndArm]) (handler_rows_effect h (by simp)) (indByteArm_mode h)
  | indLeft => exact ha (by simp [isIndArm]) (handler_rows_effect h (by simp)) (indByteArm_mode h)
  | indRight => exact ha (by simp [isIndArm]) (handler_rows_effect h (by simp)) (indByteArm_mode h)
  | indHazard => exact ha (by simp [isIndArm]) (handler_rows_effect h (by simp)) (indByteArm_mode h)
  | indIgnored v =>
    refine ha (by simp [isIndArm]) (handler_rows_effect h (by simp)) ?_
    simp only [exec, execIndIgnored] at h
    split at h
    · exact indByteArm_mode h
    · cases h; rfl
  | modeNormal => exact hh (by simp [isModeHandler]) (handler_rows_effect h (by simp))
  | modeCollision => exact hh (by simp [isModeHandler]) (handler_rows_effect h (by simp))
  | keyP1Increment =>
    simp only [exec, execKeyP1Increment, gearKeyArm] at h
    split at h <;> cases h <;> exact .gear _ s.p1.phase (by simp)
  | keyP1Decrement =>
    simp only [exec, execKeyP1Decrement, gearKeyArm] at h
    split at h <;> cases h <;> exact .gear _ s.p1.phase (by simp)
  | keyP1Collision =>
    simp only [exec, execKeyP1Collision, gearKeyArm] at h
    split at h <;> cases h <;> exact .gear _ s.p1.phase (by simp)
  | keyP2Left =>
    simp only [exec, execKeyP2Left, indKeyArm] at h
    split at h <;> cases h <;> exact .ind _ s.p2.phase (by simp)
  | keyP2Right =>
    simp only [exec, execKeyP2Right, indKeyArm] at h
    split at h <;> cases h <;> exact .ind _ s.p2.phase (by simp)
  | keyP2Hazard =>
    simp only [exec, execKeyP2Hazard, indKeyArm] at h
    split at h <;> cases h <;> exact .ind _ s.p2.phase (by simp)
  | keyP2Off =>
    simp only [exec, execKeyP2Off, indKeyArm] at h
    split at h <;> cases h <;> exact .ind _ s.p2.phase (by simp)
  | keyAllReleased n =>
    exact edge n Config.allReleased id (fun r f => ⟨r, rfl, rfl, rfl⟩) (by cases h; rfl)
      (.inr (.inr (.inr rfl))) (by simp)

/-- A reflexive and transitive relation that holds across each instruction of a list holds across the list. -/
theorem execAll_induction {P : State → State → Prop} {G : Instr → Prop} (refl : ∀ s, P s s)
    (trans : ∀ {s t u}, P s t → P t u → P s u) (step : ∀ {i s t}, G i → exec i s = .next t → P s t) :
    ∀ {l : List Instr} {s t : State}, (∀ i ∈ l, G i) → execAll l s = .next t → P s t := by
  intro l
  induction l with
  | nil => intro s t _ h; cases h; exact refl _
  | cons i l ih =>
    intro s t hg h
    simp only [execAll] at h
    split at h
    · exact trans (step (hg i (by simp)) ‹_›) (ih (fun j hj => hg j (by simp [hj])) h)
    · cases h
    · cases h

/-- What a delivery leaves as it was: everything but the slots' registers and the payload memory (R143). -/
theorem deliver_frame {src : Role} {s t : State} (h : deliver src s = .next t) :
    t = { s with
      p1 := { s.p1 with tx := t.p1.tx, rx := t.p1.rx }
      p2 := { s.p2 with tx := t.p2.tx, rx := t.p2.rx }
      c := { s.c with tx := t.c.tx, rx := t.c.rx }
      mem := t.mem } := by
  obtain ⟨-, bytes, -, rfl⟩ := deliver_eq_next.1 h
  cases src <;> rfl

/-- What a poll leaves as it was: everything but `MSG`, the unread flag, the payload memory and the free values' count
(R142). -/
theorem PollEffect.frame {s t : State} (h : PollEffect s t) :
    t = { s with
      c := { s.c with msg := t.c.msg, rx := { s.c.rx with full := t.c.rx.full } }
      mem := t.mem
      free := t.free } := by
  rcases h with rfl | rfl | ⟨bytes, -, -, rfl⟩ <;> rfl

end Sys2Proof.Machine
end

