-- ==== Sys2Proof/Laws/PerInstr.lean ====
section
/-! SUPPORT. One lemma for each constructor of `Instr`: its step word lies in the width of its format, so that no row's
word has a stray bit (R90, R94, R101, R102, R107, R111). -/

namespace Sys2Proof.Laws

/-- The bits of an instruction's step word lie in its format's width. -/
def TableRow.Statement (i : Instr) : Prop := (encode i).bits.toNat < 2 ^ (encode i).format.width

/-- A value of at most 16 bits, widened to 16, keeps its bound. -/
theorem TableRow_widen {k : Nat} (v : BitVec k) : (v.setWidth 16 : BitVec 16).toNat < 2 ^ k := by
  rw [BitVec.toNat_setWidth]
  exact lt_of_le_of_lt (Nat.mod_le _ _) v.isLt

theorem TableRow.reserved : TableRow.Statement .reserved := show 0 < 16 by decide

theorem TableRow.keyLevel (n : Producer) (m : KeyMask) : TableRow.Statement (.keyLevel n m) := show 1 < 16 by decide

theorem TableRow.keyEdge (n : Producer) (m : KeyMask) : TableRow.Statement (.keyEdge n m) := show 2 < 16 by decide

theorem TableRow.sample (n : Producer) (v : NumValue) : TableRow.Statement (.sample n v) := show 3 < 16 by decide

theorem TableRow.gearStep : TableRow.Statement .gearStep := show 4 < 16 by decide

theorem TableRow.indStep : TableRow.Statement .indStep := show 5 < 16 by decide

theorem TableRow.txGear : TableRow.Statement .txGear := show 6 < 16 by decide

theorem TableRow.txSpeed : TableRow.Statement .txSpeed := show 7 < 16 by decide

theorem TableRow.txRpm : TableRow.Statement .txRpm := show 8 < 16 by decide

theorem TableRow.txInd : TableRow.Statement .txInd := show 9 < 16 by decide

theorem TableRow.canRx : TableRow.Statement .canRx := show 10 < 16 by decide

theorem TableRow.dispatch : TableRow.Statement .dispatch := show 11 < 16 by decide

theorem TableRow.busDeliver (src : Role) : TableRow.Statement (.busDeliver src) := show 12 < 16 by decide

theorem TableRow.timerFire : TableRow.Statement .timerFire := show 13 < 16 by decide

theorem TableRow.tickIsr : TableRow.Statement .tickIsr := show 14 < 16 by decide

theorem TableRow.reset (n : Role) : TableRow.Statement (.reset n) := show 15 < 16 by decide

theorem TableRow.canTx (n : Role) (k : Kind) (len : Len) (payload : List Byte) : TableRow.Statement (.canTx n k len payload) := by
  have hk : Machine.kindCode k < 8 := by cases k <;> decide
  have hl : len.toNat < 16 := len.isLt
  show (BitVec.ofNat 16 (Machine.kindCode k + 8 * len.toNat)).toNat < 2 ^ 7
  rw [BitVec.toNat_ofNat]
  omega

theorem TableRow.frameGear : TableRow.Statement .frameGear := TableRow_widen _

theorem TableRow.frameSpeed : TableRow.Statement .frameSpeed := TableRow_widen _

theorem TableRow.frameRpm : TableRow.Statement .frameRpm := TableRow_widen _

theorem TableRow.frameIndicator : TableRow.Statement .frameIndicator := TableRow_widen _

theorem TableRow.frameUnknown (id : Ident) : TableRow.Statement (.frameUnknown id) := TableRow_widen _

theorem TableRow.frameNone : TableRow.Statement .frameNone := show 0 < 16 by decide

theorem TableRow.gearbyteDisplay (v : Byte) : TableRow.Statement (.gearbyteDisplay v) := TableRow_widen _

theorem TableRow.gearbyteSentinel : TableRow.Statement .gearbyteSentinel := show 8 < 256 by decide

theorem TableRow.gearbyteOutOfRange (v : Byte) : TableRow.Statement (.gearbyteOutOfRange v) := TableRow_widen _

theorem TableRow.indOff : TableRow.Statement .indOff := show 0 < 256 by decide

theorem TableRow.indLeft : TableRow.Statement .indLeft := show 1 < 256 by decide

theorem TableRow.indRight : TableRow.Statement .indRight := show 2 < 256 by decide

theorem TableRow.indHazard : TableRow.Statement .indHazard := show 3 < 256 by decide

theorem TableRow.indIgnored (v : Byte) : TableRow.Statement (.indIgnored v) := TableRow_widen _

theorem TableRow.modeNormal : TableRow.Statement .modeNormal := show 0 < 2 by decide

theorem TableRow.modeCollision : TableRow.Statement .modeCollision := show 1 < 2 by decide

theorem TableRow.keyP1Increment : TableRow.Statement .keyP1Increment := Nat.zero_lt_one

theorem TableRow.keyP1Decrement : TableRow.Statement .keyP1Decrement := Nat.zero_lt_one

theorem TableRow.keyP1Collision : TableRow.Statement .keyP1Collision := Nat.zero_lt_one

theorem TableRow.keyP2Left : TableRow.Statement .keyP2Left := Nat.zero_lt_one

theorem TableRow.keyP2Right : TableRow.Statement .keyP2Right := Nat.zero_lt_one

theorem TableRow.keyP2Hazard : TableRow.Statement .keyP2Hazard := Nat.zero_lt_one

theorem TableRow.keyP2Off : TableRow.Statement .keyP2Off := Nat.zero_lt_one

theorem TableRow.keyAllReleased (n : Producer) : TableRow.Statement (.keyAllReleased n) := by
  cases n <;> exact Nat.zero_lt_one

end Sys2Proof.Laws
end

