-- ==== Sys2Proof/Tests/Slice0.lean ====
section
/-! SUPPORT. The model's own tests. Expected results come from spec/95_test_vectors.md (the vector's name stands at the
test) or from the rule named; a test whose name begins `test_w_` shows a state and operands that meet the hypotheses of
the statement named, clause by clause. -/

namespace Sys2Proof.Tests

open Sys2Proof Sys2Proof.Machine

/-! ### Helpers -/

/-- The next state of an outcome, if it is one. -/
def nextOf : Result → Option State
  | .next s => some s
  | .fault _ => none
  | .refused _ => none

/-- A mask of `P1` that is none of its keys and not `ALL_RELEASED` (every index below 8 gives a different mask). -/
def strayMask1 : KeyMask := Config.keyAt Config.keyPermP1 4

/-- A mask of `P2` that is none of its keys and not `ALL_RELEASED`. -/
def strayMask2 : KeyMask := Config.keyAt Config.keyPermP2 5

/-- An identifier that is none of the four (R229). -/
def strayId : Ident := Config.idPerm 4

/-- `P1` with a key event and a gear. -/
def gearState (kev : KeyEvent) (g : Gear) : State :=
  { State.reset with gear := g, p1 := { ProducerNode.reset with kev := kev } }

/-- `P2` with a key event and an indicator state. -/
def indState (kev : KeyEvent) (i : Ind) : State :=
  { State.reset with ind := i, p2 := { ProducerNode.reset with kev := kev } }

/-- `P1` and `P2` with a sampled value. -/
def numState (v : NumValue) : State :=
  { State.reset with p1 := { ProducerNode.reset with num := v }, p2 := { ProducerNode.reset with num := v } }

/-- `C` in a mode, with a message of a kind and its bytes, at a tick. -/
def msgState (m : Mode) (k : Kind) (bytes : List Byte) (t : Tick) : State :=
  { State.reset with
    c := { ConsumerNode.reset with mode := m, msg := ⟨k, BitVec.ofNat 4 bytes.length⟩, tick := t }
    mem := memWrite .cmsg bytes [] }

/-- `C` with an unread frame. -/
def rxState (id : Ident) (bytes : List Byte) : State :=
  { State.reset with
    c := { ConsumerNode.reset with rx := ⟨id, BitVec.ofNat 4 bytes.length, true⟩ }
    mem := memWrite .crx bytes [] }

/-- `P1` and `P2` with a staged frame each and both requests pending (VT12). -/
def txState : State :=
  { State.reset with
    p1 := { ProducerNode.reset with tx := ⟨Config.idGear, 1, true⟩ }
    p2 := { ProducerNode.reset with tx := ⟨Config.idIndicator, 1, true⟩ }
    mem := memWrite .p2tx [1] (memWrite .p1tx [2] []) }

/-- A state in the middle of an alarm that meets the invariants: the sentinel staged, unread and polled. -/
def alarmState : State :=
  { State.reset with
    gear := 8
    p1 := { ProducerNode.reset with tx := ⟨Config.idGear, 1, true⟩ }
    c := { ConsumerNode.reset with
      mode := .collision, rx := ⟨Config.idGear, 1, true⟩, msg := ⟨.gear, 1⟩, tick := 19999, tickIf := true }
    mem := memWrite .cmsg [8] (memWrite .crx [8] (memWrite .p1tx [8] [])) }

theorem strayId_ne : strayId ≠ Config.idGear ∧ strayId ≠ Config.idSpeed ∧ strayId ≠ Config.idRpm ∧
    strayId ≠ Config.idIndicator :=
  ⟨fun e => absurd (Config.idPerm.injective e) (by decide), fun e => absurd (Config.idPerm.injective e) (by decide),
   fun e => absurd (Config.idPerm.injective e) (by decide), fun e => absurd (Config.idPerm.injective e) (by decide)⟩

theorem kindOf_strayId : kindOf strayId = .unknown := by
  simp [kindOf, strayId_ne]

theorem strayMask1_ne : strayMask1 ≠ Config.kInc ∧ strayMask1 ≠ Config.kDec ∧ strayMask1 ≠ Config.kCol ∧
    strayMask1 ≠ Config.allReleased :=
  ⟨keyAt_ne _ (by decide) (by decide) (by decide), keyAt_ne _ (by decide) (by decide) (by decide),
   keyAt_ne _ (by decide) (by decide) (by decide), keyAt_ne_released _ (by decide) (by decide)⟩

theorem strayMask2_ne : strayMask2 ≠ Config.kOff ∧ strayMask2 ≠ Config.kLeft ∧ strayMask2 ≠ Config.kRight ∧
    strayMask2 ≠ Config.kHaz ∧ strayMask2 ≠ Config.allReleased :=
  ⟨keyAt_ne _ (by decide) (by decide) (by decide), keyAt_ne _ (by decide) (by decide) (by decide),
   keyAt_ne _ (by decide) (by decide) (by decide), keyAt_ne _ (by decide) (by decide) (by decide),
   keyAt_ne_released _ (by decide) (by decide)⟩

/-! ### Well-formedness: an ill-formed term for each check -/

/-- R94: an identifier of a kind is not foreign. -/
theorem test_wf_refuses_known_id : (Instr.frameUnknown Config.idRpm).wellFormed = false := by
  simp [Instr.wellFormed]

/-- R107: 8 is the sentinel, not a gear to display. -/
theorem test_wf_refuses_display_8 : (Instr.gearbyteDisplay 8).wellFormed = false := by decide

/-- R107: 8 is the sentinel, not out of range. -/
theorem test_wf_refuses_outOfRange_8 : (Instr.gearbyteOutOfRange 8).wellFormed = false := by decide

/-- R101: 3 is HAZARD, not ignored. -/
theorem test_wf_refuses_ignored_3 : (Instr.indIgnored 3).wellFormed = false := by decide

/-! ### Decoding: every row's word, written out from the spec's encoding of it -/

/-- A word of some bits, with a mask and a value on the ports and a payload. -/
def word (f : Format) (bits : BitVec 16) (n : Role) : StepWord := ⟨f, bits, n, Config.kInc, 120, [0x31]⟩

theorem test_decode_reserved : decode (word .op4 0b0000 .c) = .ok .reserved := rfl
theorem test_decode_keyLevel : decode (word .op4 0b0001 .p2) = .ok (.keyLevel .p2 Config.kInc) := rfl
theorem test_decode_keyEdge : decode (word .op4 0b0010 .p1) = .ok (.keyEdge .p1 Config.kInc) := rfl
theorem test_decode_sample : decode (word .op4 0b0011 .p2) = .ok (.sample .p2 120) := rfl
theorem test_decode_gearStep : decode (word .op4 0b0100 .p1) = .ok .gearStep := rfl
theorem test_decode_indStep : decode (word .op4 0b0101 .p2) = .ok .indStep := rfl
theorem test_decode_txGear : decode (word .op4 0b0110 .p1) = .ok .txGear := rfl
theorem test_decode_txSpeed : decode (word .op4 0b0111 .p1) = .ok .txSpeed := rfl
theorem test_decode_txRpm : decode (word .op4 0b1000 .p2) = .ok .txRpm := rfl
theorem test_decode_txInd : decode (word .op4 0b1001 .p2) = .ok .txInd := rfl
theorem test_decode_canRx : decode (word .op4 0b1010 .c) = .ok .canRx := rfl
theorem test_decode_dispatch : decode (word .op4 0b1011 .c) = .ok .dispatch := rfl
theorem test_decode_busDeliver : decode (word .op4 0b1100 .p2) = .ok (.busDeliver .p2) := rfl
theorem test_decode_timerFire : decode (word .op4 0b1101 .c) = .ok .timerFire := rfl
theorem test_decode_tickIsr : decode (word .op4 0b1110 .c) = .ok .tickIsr := rfl
theorem test_decode_reset : decode (word .op4 0b1111 .c) = .ok (.reset .c) := rfl

/-- Kind code 3 in bits 2 to 0, length 1 in bits 6 to 3 (log 2). -/
theorem test_decode_canTx : decode (word .primitive 0b0001011 .p2) = .ok (.canTx .p2 .indicator 1 [0x31]) := by
  decide

/-- The identifiers are OPEN (R94), so their words are written with their names. -/
theorem decode_ident (id : Ident) : decode (word .frameId11 (id.setWidth 16) .c) = .ok (decodeIdent id) := by
  have hb : id.toNat < 2048 := id.isLt
  have h : (id.setWidth 16 : BitVec 16).toNat < 2 ^ 11 := by
    rw [BitVec.toNat_setWidth]
    exact lt_of_le_of_lt (Nat.mod_le _ _) hb
  have e : ((id.setWidth 16 : BitVec 16).setWidth 11) = id := by
    apply BitVec.eq_of_toNat_eq
    simp only [BitVec.toNat_setWidth]
    omega
  rw [show decode (word .frameId11 (id.setWidth 16) .c) = decodeFormat _ from if_pos h]
  show Except.ok (decodeIdent ((id.setWidth 16 : BitVec 16).setWidth 11)) = _
  rw [e]

theorem test_decode_frameGear : decode (word .frameId11 (Config.idGear.setWidth 16) .c) = .ok .frameGear := by
  rw [decode_ident]; simp [decodeIdent]
theorem test_decode_frameSpeed : decode (word .frameId11 (Config.idSpeed.setWidth 16) .c) = .ok .frameSpeed := by
  rw [decode_ident]; simp [decodeIdent]
theorem test_decode_frameRpm : decode (word .frameId11 (Config.idRpm.setWidth 16) .c) = .ok .frameRpm := by
  rw [decode_ident]; simp [decodeIdent]
theorem test_decode_frameIndicator :
    decode (word .frameId11 (Config.idIndicator.setWidth 16) .c) = .ok .frameIndicator := by
  rw [decode_ident]; simp [decodeIdent]
theorem test_decode_frameUnknown :
    decode (word .frameId11 (strayId.setWidth 16) .c) = .ok (.frameUnknown strayId) := by
  rw [decode_ident]; simp [decodeIdent, kindOf_strayId]

theorem test_decode_frameNone : decode (word .frameLen 0b0000 .c) = .ok .frameNone := rfl
theorem test_decode_gearbyteDisplay : decode (word .gearByte 0b00000111 .c) = .ok (.gearbyteDisplay 7) := by decide
theorem test_decode_gearbyteSentinel : decode (word .gearByte 0b00001000 .c) = .ok .gearbyteSentinel := by decide
theorem test_decode_gearbyteOutOfRange :
    decode (word .gearByte 0b00001001 .c) = .ok (.gearbyteOutOfRange 9) := by decide
theorem test_decode_indOff : decode (word .indByte 0b00000000 .c) = .ok .indOff := by decide
theorem test_decode_indLeft : decode (word .indByte 0b00000001 .c) = .ok .indLeft := by decide
theorem test_decode_indRight : decode (word .indByte 0b00000010 .c) = .ok .indRight := by decide
theorem test_decode_indHazard : decode (word .indByte 0b00000011 .c) = .ok .indHazard := by decide
theorem test_decode_indIgnored : decode (word .indByte 0b11111111 .c) = .ok (.indIgnored 255) := by decide
theorem test_decode_modeNormal : decode (word .mode1 0b0 .c) = .ok .modeNormal := by decide
theorem test_decode_modeCollision : decode (word .mode1 0b1 .c) = .ok .modeCollision := by decide

/-- The masks are OPEN (R104, R105), so their words carry their names. -/
def maskWord (f : Format) (m : KeyMask) : StepWord := ⟨f, 0, .c, m, 0, []⟩

theorem decode_mask1 (m : KeyMask) : decode (maskWord .keyMaskP1 m) = decodeMaskP1 m := rfl
theorem decode_mask2 (m : KeyMask) : decode (maskWord .keyMaskP2 m) = decodeMaskP2 m := rfl

theorem test_decode_keyP1Increment : decode (maskWord .keyMaskP1 Config.kInc) = .ok .keyP1Increment := by
  rw [decode_mask1]; simp [decodeMaskP1, keysP1_distinct]
theorem test_decode_keyP1Decrement : decode (maskWord .keyMaskP1 Config.kDec) = .ok .keyP1Decrement := by
  rw [decode_mask1]; simp [decodeMaskP1, keysP1_distinct]
theorem test_decode_keyP1Collision : decode (maskWord .keyMaskP1 Config.kCol) = .ok .keyP1Collision := by
  rw [decode_mask1]; simp [decodeMaskP1, keysP1_distinct]
theorem test_decode_keyP2Left : decode (maskWord .keyMaskP2 Config.kLeft) = .ok .keyP2Left := by
  rw [decode_mask2]; simp [decodeMaskP2, keysP2_distinct]
theorem test_decode_keyP2Right : decode (maskWord .keyMaskP2 Config.kRight) = .ok .keyP2Right := by
  rw [decode_mask2]; simp [decodeMaskP2, keysP2_distinct]
theorem test_decode_keyP2Hazard : decode (maskWord .keyMaskP2 Config.kHaz) = .ok .keyP2Hazard := by
  rw [decode_mask2]; simp [decodeMaskP2, keysP2_distinct]
theorem test_decode_keyP2Off : decode (maskWord .keyMaskP2 Config.kOff) = .ok .keyP2Off := by
  rw [decode_mask2]; simp [decodeMaskP2, keysP2_distinct]
theorem test_decode_keyAllReleased :
    decode (maskWord .keyMaskP1 0) = .ok (.keyAllReleased .p1) ∧
      decode (maskWord .keyMaskP2 0) = .ok (.keyAllReleased .p2) := ⟨rfl, rfl⟩

/-- The five words that are no row, each by its name (log 14). -/
theorem test_decode_refuses :
    decode (word .mode1 2 .c) = .error .strayBits ∧ decode (word .op4 1 .c) = .error .noSuchAgent ∧
      decode (word .frameLen 1 .c) = .error .lengthNotZero ∧ decode (word .primitive 5 .p1) = .error .badKindCode ∧
      decode (maskWord .keyMaskP1 strayMask1) = .error .unmatchedMask := by
  refine ⟨by decide, by decide, by decide, by decide, ?_⟩
  rw [decode_mask1]
  simp [decodeMaskP1, gearKeyOf, strayMask1_ne]

/-! ### The state -/

theorem test_reset_memory_canonical : State.reset.mem.wf = true := by decide
theorem test_alarm_memory_canonical : alarmState.mem.wf = true := by decide

/-- R62: a write of the value a byte already has, and a clear, give equal memories. -/
theorem test_memory_canonical_form :
    memWrite .crx [8] (memWrite .crx [1, 2] []) = memWrite .crx [8] [] ∧ clearSlot .crx (memWrite .crx [8] []) = [] := by
  decide

/-! ### Codec -/

/-- S6. -/
theorem test_encNum : encNum 0 = [0x30, 0x30] ∧ encNum 5 = [0x35] ∧ encNum 120 = [0x31, 0x32, 0x30] ∧
    encNum 12345 = [0x31, 0x32, 0x33, 0x34, 0x35] := by decide

/-- VK9. -/
theorem test_decNum : decNum [0x30, 0x30] = some 0 ∧ decNum [0x30, 0x35] = some 5 ∧ decNum [] = none ∧
    decNum [0x41] = none := by decide

/-! ### Keys -/

/-- S1, reads 1 to 3 and 5: released, the event, still held, re-armed. -/
theorem test_keyEdge_events :
    (edgeEvents .p1 [Config.allReleased, Config.kInc, Config.kInc, Config.allReleased] State.reset).map
        KeyEvent.valid = [false, true, false, false] := by
  have h : ¬ Config.kInc = Config.allReleased := keysP1_distinct.2.2.2.1
  simp [edgeEvents, exec, execKeyEdge, edgeRead, edge, setArmed, reportEvent, reportNone, State.reset,
    ProducerNode.reset, State.setProd, State.prod, State.advance, State.setPhase, Producer.role, h]

/-- VE8: a LEVEL read reports even the released mask. -/
theorem test_keyLevel_released : (nextOf (exec (.keyLevel .p1 0) State.reset)).map (fun t => (t.p1.kev.valid, t.p1.armed))
    = some (true, true) := rfl

/-- R182: the arm of the released mask re-arms. -/
theorem test_keyAllReleased : (nextOf (exec (.keyAllReleased .p2)
    { State.reset with p2 := { ProducerNode.reset with armed := false } })).map (fun t => (t.p2.armed, t.p2.phase))
    = some (true, 0) := rfl

/-! ### Producers -/

/-- R191: the maxima are accepted, the next values refused. -/
theorem test_sample_limits :
    (nextOf (exec (.sample .p1 999) State.reset)).map (fun t => t.p1.num) = some 999 ∧
      nextOf (exec (.sample .p1 1000) State.reset) = none ∧
      (nextOf (exec (.sample .p2 99999) State.reset)).map (fun t => t.p2.num) = some 99999 ∧
      nextOf (exec (.sample .p2 100000) State.reset) = none := ⟨rfl, rfl, rfl, rfl⟩

theorem gearStep_of_key {m : KeyMask} {k : GearKey} (h : gearKeyOf m = some k) (g : Gear) :
    (nextOf (exec .gearStep (gearState ⟨true, m⟩ g))).map State.gear = some (gearAfter k g) := by
  simp [exec, execGearStep, gearKeyEvent, gearState, h, nextOf]
  rfl

/-- VG1 to VG4. -/
theorem test_gear_increment :
    (nextOf (exec .gearStep (gearState ⟨true, Config.kInc⟩ 0))).map State.gear = some 1 ∧
      (nextOf (exec .gearStep (gearState ⟨true, Config.kInc⟩ 6))).map State.gear = some 7 ∧
      (nextOf (exec .gearStep (gearState ⟨true, Config.kInc⟩ 7))).map State.gear = some 7 ∧
      (nextOf (exec .gearStep (gearState ⟨true, Config.kInc⟩ 8))).map State.gear = some 8 := by
  refine ⟨?_, ?_, ?_, ?_⟩ <;> rw [gearStep_of_key gearKeyOf_kInc] <;> rfl

/-- VG5 to VG9. -/
theorem test_gear_decrement :
    (nextOf (exec .gearStep (gearState ⟨true, Config.kDec⟩ 0))).map State.gear = some 0 ∧
      (nextOf (exec .gearStep (gearState ⟨true, Config.kDec⟩ 1))).map State.gear = some 1 ∧
      (nextOf (exec .gearStep (gearState ⟨true, Config.kDec⟩ 2))).map State.gear = some 1 ∧
      (nextOf (exec .gearStep (gearState ⟨true, Config.kDec⟩ 8))).map State.gear = some 1 := by
  refine ⟨?_, ?_, ?_, ?_⟩ <;> rw [gearStep_of_key gearKeyOf_kDec] <;> rfl

/-- VG10. -/
theorem test_gear_collision :
    (nextOf (exec .gearStep (gearState ⟨true, Config.kCol⟩ 3))).map State.gear = some 8 := by
  rw [gearStep_of_key gearKeyOf_kCol]; rfl

/-- VG11, VG13. -/
theorem test_gear_none :
    (nextOf (exec .gearStep (gearState ⟨false, Config.kInc⟩ 4))).map State.gear = some 4 ∧
      (nextOf (exec .gearStep (gearState ⟨true, strayMask1⟩ 4))).map State.gear = some 4 := by
  refine ⟨rfl, ?_⟩
  simp [exec, execGearStep, gearKeyEvent, gearState, gearKeyOf, strayMask1_ne, nextOf]

theorem indStep_of_key {m : KeyMask} {k : Ind} (h : indKeyOf m = some k) (i : Ind) :
    (nextOf (exec .indStep (indState ⟨true, m⟩ i))).map State.ind = some k := by
  simp [exec, execIndStep, indKeyEvent, indState, h, nextOf]
  rfl

/-- VI1 to VI4. -/
theorem test_ind_keys :
    (nextOf (exec .indStep (indState ⟨true, Config.kLeft⟩ .off))).map State.ind = some .left ∧
      (nextOf (exec .indStep (indState ⟨true, Config.kRight⟩ .left))).map State.ind = some .right ∧
      (nextOf (exec .indStep (indState ⟨true, Config.kHaz⟩ .right))).map State.ind = some .hazard ∧
      (nextOf (exec .indStep (indState ⟨true, Config.kOff⟩ .hazard))).map State.ind = some .off :=
  ⟨indStep_of_key indKeyOf_kLeft _, indStep_of_key indKeyOf_kRight _, indStep_of_key indKeyOf_kHaz _,
   indStep_of_key indKeyOf_kOff _⟩

/-- VI6, VI7. -/
theorem test_ind_none :
    (nextOf (exec .indStep (indState ⟨false, Config.kLeft⟩ .hazard))).map State.ind = some .hazard ∧
      (nextOf (exec .indStep (indState ⟨true, strayMask2⟩ .hazard))).map State.ind = some .hazard := by
  refine ⟨rfl, ?_⟩
  simp [exec, execIndStep, indKeyEvent, indState, indKeyOf, strayMask2_ne, nextOf]

/-- R197 to R200, their examples: the staged bytes. -/
theorem test_tx_bytes :
    (nextOf (exec .txGear (gearState ⟨false, 0⟩ 8))).map State.mem = some [(0, 8)] ∧
      (nextOf (exec .txSpeed (numState 120))).map State.mem = some [(0, 0x31), (1, 0x32), (2, 0x30)] ∧
      (nextOf (exec .txRpm (numState 6000))).map State.mem =
        some [(16, 0x36), (17, 0x30), (18, 0x30), (19, 0x30)] ∧
      (nextOf (exec .txInd (indState ⟨false, 0⟩ .hazard))).map State.mem = some [(16, 3)] := by
  refine ⟨rfl, rfl, rfl, rfl⟩

/-- R197, R198: the slot's registers and the phase, which wraps after the second transmission. -/
theorem test_tx_registers :
    (nextOf (exec .txGear State.reset)).map (fun t => t.p1.tx) = some ⟨Config.idGear, 1, true⟩ ∧
      (nextOf (exec .txSpeed { State.reset with p1 := { ProducerNode.reset with phase := 4 } })).map
        (fun t => (t.p1.tx.len, t.p1.phase)) = some (2, 0) := ⟨rfl, rfl⟩

/-! ### Transport -/

/-- VT3, VT4, VT5. -/
theorem test_canTx_lengths :
    exec (.canTx .p1 .gear 0 []) State.reset = .refused .badTransmit ∧
      exec (.canTx .p1 .rpm 9 [0, 0, 0, 0, 0, 0, 0, 0, 0]) State.reset = .refused .badTransmit ∧
      (nextOf (exec (.canTx .p1 .rpm 8 [1, 2, 3, 4, 5, 6, 7, 8]) State.reset)).map (fun t => t.p1.tx) =
        some ⟨Config.idRpm, 8, true⟩ := ⟨rfl, rfl, rfl⟩

/-- VT6: both other nodes take the frame, the sender's request is done, its own receive slot is untouched. -/
theorem test_busDeliver :
    (nextOf (exec (.busDeliver .p2) txState)).map (fun t => (t.c.rx, t.p1.rx.full, t.p2.rx.full, t.p2.tx.req)) =
        some (⟨Config.idIndicator, 1, true⟩, true, false, false) ∧
      (nextOf (exec (.busDeliver .p2) txState)).map (fun t => memRead .crx 1 t.mem) = some (.ok [1]) := ⟨rfl, rfl⟩

/-- VT7. -/
theorem test_busDeliver_not_enabled : exec (.busDeliver .p2) State.reset = .refused .notEnabled := rfl

/-- VT8. -/
theorem test_canRx_frame :
    (nextOf (exec .canRx (rxState Config.idSpeed [0x30, 0x30]))).map (fun t => (t.c.rx.full, t.c.phase, t.c.msg.len)) =
        some (false, 1, 2) ∧
      (nextOf (exec .canRx (rxState Config.idSpeed [0x30, 0x30]))).map (fun t => memRead .cmsg 2 t.mem) =
        some (.ok [0x30, 0x30]) := ⟨rfl, rfl⟩

/-- VT9 and VT11: an empty slot, and a frame of length 0. -/
theorem test_canRx_none :
    (nextOf (exec .canRx State.reset)).map (fun t => (t.c.msg.len, t.c.phase)) = some (0, 1) ∧
      (nextOf (exec .canRx (rxState Config.idGear []))).map (fun t => (t.c.msg.len, t.c.rx.full)) =
        some (0, false) := ⟨rfl, rfl⟩

/-- VT10: a foreign frame. -/
theorem test_canRx_foreign :
    (nextOf (exec .canRx (rxState strayId [0xAA, 0xBB]))).map (fun t => t.c.msg.kind) = some .unknown := by
  rw [← kindOf_strayId]; rfl

/-- R142, R161: an arm takes a frame of its own kind and no other. -/
theorem test_frame_rows :
    (nextOf (exec .frameRpm (rxState Config.idRpm [0x39]))).map (fun t => (t.c.msg, t.c.rx.full, t.c.phase)) =
        some (⟨.rpm, 1⟩, false, 0) ∧
      exec .frameRpm (rxState Config.idGear [0x01]) = .next (rxState Config.idGear [0x01]) ∧
      (nextOf (exec .frameNone State.reset)).map (fun t => t.c.msg.len) = some 0 := by
  refine ⟨?_, ?_, rfl⟩
  · simp [exec, execFrameRpm, frameArm, rxState, takeFrame, memRead, readFrom, memWrite, writeFrom, writeByte,
      clearSlot, slotBase, readByte, nextOf]
    rfl
  · simp [exec, execFrameRpm, frameArm, rxState]

/-! ### Dispatcher -/

/-- S3 cycle 1, S9: the sentinel, a gear, a byte out of range. -/
theorem test_dispatch_gear_normal :
    (nextOf (exec .dispatch (msgState .normal .gear [8] 0))).map (fun t => (t.c.mode, t.c.out)) =
        some (.collision, bootEvents ++ [.clear, .printAt Config.addrAlarm Config.alarmText]) ∧
      (nextOf (exec .dispatch (msgState .normal .gear [7] 0))).map (fun t => (t.c.mode, t.c.out)) =
        some (.normal, bootEvents ++ [.printAt Config.addrGear (Config.gearText 7)]) ∧
      (nextOf (exec .dispatch (msgState .normal .gear [9] 0))).map (fun t => (t.c.mode, t.c.out)) =
        some (.normal, bootEvents) := ⟨rfl, rfl, rfl⟩

/-- S3 cycle 2, S4: the repeat draws nothing, a gear ends the alarm with one redraw, other kinds are dropped. -/
theorem test_dispatch_collision :
    (nextOf (exec .dispatch (msgState .collision .gear [8] 0))).map (fun t => t.c.mode) = some .collision ∧
      (nextOf (exec .dispatch (msgState .collision .gear [3] 0))).map (fun t => (t.c.mode, t.c.out)) =
        some (.normal, bootEvents ++ .clear :: drawLabels) ∧
      (nextOf (exec .dispatch (msgState .collision .indicator [3] 0))).map
        (fun t => (t.c.mode, t.c.lampL, t.c.lampR, t.c.out)) = some (.collision, false, false, bootEvents) :=
  ⟨rfl, rfl, rfl⟩

/-- R226, its example. -/
theorem test_dispatch_speed :
    (nextOf (exec .dispatch (msgState .normal .speed [0x30, 0x30] 0))).map (fun t => t.c.out) =
      some (bootEvents ++ [.printAt Config.addrSpeed [0x30, 0x30]]) := rfl

/-- R228, its example; S5: the threshold is in the on phase, the next tick is not. -/
theorem test_dispatch_indicator :
    (nextOf (exec .dispatch (msgState .normal .indicator [1] 5000))).map (fun t => (t.c.lampL, t.c.lampR, t.c.out)) =
        some (true, false, bootEvents ++
          [.writeAt Config.addrMarkL Config.markL, .writeAt Config.addrMarkR Config.blank]) ∧
      (nextOf (exec .dispatch (msgState .normal .indicator [3] 10000))).map (fun t => (t.c.lampL, t.c.lampR)) =
        some (true, true) ∧
      (nextOf (exec .dispatch (msgState .normal .indicator [3] 10001))).map (fun t => (t.c.lampL, t.c.lampR)) =
        some (false, false) := ⟨rfl, rfl, rfl⟩

/-- R107, R101, R102: a row acts on its own byte or mode only. -/
theorem test_byte_rows :
    (nextOf (exec .gearbyteSentinel (msgState .normal .gear [8] 0))).map (fun t => t.c.mode) = some .collision ∧
      exec .gearbyteSentinel (msgState .normal .gear [7] 0) = .next (msgState .normal .gear [7] 0) ∧
      (nextOf (exec .indLeft (msgState .normal .indicator [1] 0))).map (fun t => t.c.lampL) = some true ∧
      exec .modeCollision (msgState .normal .gear [8] 0) = .next (msgState .normal .gear [8] 0) := by
  refine ⟨rfl, rfl, rfl, rfl⟩

/-! ### Timer and reset -/

/-- R267, R268, their examples. -/
theorem test_tick :
    (nextOf (exec .timerFire State.reset)).map (fun t => t.c.tickIf) = some true ∧
      (nextOf (exec .tickIsr alarmState)).map (fun t => (t.c.tick, t.c.tickIf)) = some (0, false) ∧
      exec .tickIsr State.reset = .refused .notEnabled := ⟨rfl, rfl, rfl⟩

/-- R310: corner cases (a), (d), (e). -/
theorem test_reset_nodes :
    (nextOf (exec (.reset .p1) alarmState)).map (fun t => (t.gear, t.p1.tx.req, t.c.rx.full)) = some (0, false, true) ∧
      (nextOf (exec (.reset .c) alarmState)).map (fun t => (t.c.mode, t.c.tick, t.c.out)) =
        some (.normal, 0, bootEvents) := ⟨rfl, rfl⟩

/-! ### The step on the words of the opcode table, right after reset -/

/-- Each of the sixteen tags runs first after reset; the reserved tag and the two agents that are not enabled there are
refused. -/
theorem test_step_tags :
    ((List.range 16).map fun w => (nextOf (step (State.reset.withFetchWord 8 w))).isSome) =
      [false, true, true, true, true, true, true, true, true, true, true, true, false, true, false, true] := rfl

/-! ### Witnesses: the hypotheses of each statement hold together somewhere, clause by clause, at boundary values -/

/-- The script of a state. -/
def scripted (ws : List StepWord) (s : State) : State := { s with feed := ws }

/-- A script changes no invariant. -/
theorem inv_scripted (ws : List StepWord) {s : State} (h : s.Inv) : (scripted ws s).Inv :=
  ⟨h.memWf, h.gearRange, h.tickRange, h.phaseRange, h.valueRange, h.staged, h.received, h.message⟩

theorem alarm_gear_frame (sl : Slot) (h : sl = .p1tx ∨ sl = .crx) : WholeFrame alarmState.mem sl Config.idGear 1 := by
  refine ⟨by simp, by decide, by decide, ?_⟩
  rcases h with rfl | rfl <;> (unfold SlotHolds; decide)

/-- A state in the middle of an alarm meets the invariants. -/
theorem alarm_inv : alarmState.Inv := by
  refine ⟨by decide, by decide, by decide, fun n => ?_, fun n => ?_, fun n h => ?_, fun n h => ?_, fun _ => ?_⟩
  · cases n <;> decide
  · cases n <;> decide
  · cases n <;> first | exact alarm_gear_frame _ (.inl rfl) | cases h
  · cases n <;> first | exact alarm_gear_frame _ (.inr rfl) | cases h
  · refine ⟨by decide, by decide, ?_⟩
    unfold SlotHolds
    decide

theorem test_w_decodeOfEncodeIsTheInstruction :
    (Instr.frameUnknown strayId).wellFormed = true ∧ (Instr.gearbyteDisplay 0).wellFormed = true ∧
      (Instr.gearbyteDisplay 7).wellFormed = true ∧ (Instr.gearbyteOutOfRange 9).wellFormed = true ∧
      (Instr.gearbyteOutOfRange 255).wellFormed = true ∧ (Instr.indIgnored 4).wellFormed = true ∧
      (Instr.indIgnored 255).wellFormed = true ∧ Instr.keyP2Hazard.wellFormed = true := by
  refine ⟨?_, by decide, by decide, by decide, by decide, by decide, by decide, rfl⟩
  simp [Instr.wellFormed, kindOf_strayId]

theorem test_w_decodedBitsAreTheRowsBits :
    decode (word .frameId11 (strayId.setWidth 16) .c) = .ok (.frameUnknown strayId) ∧
      decode (word .op4 0b1111 .c) = .ok (.reset .c) ∧
      (decode (maskWord .keyMaskP1 Config.kCol) = .ok .keyP1Collision ∧
        (maskWord .keyMaskP1 Config.kCol).format = .keyMaskP1) ∧
      decode (maskWord .keyMaskP2 Config.kLeft) = .ok .keyP2Left ∧
        (maskWord .keyMaskP2 Config.kLeft).format = .keyMaskP2 :=
  ⟨test_decode_frameUnknown, rfl, ⟨test_decode_keyP1Collision, rfl⟩, test_decode_keyP2Left, rfl⟩

theorem test_w_kindOfInvertsIdOf :
    idOf .gear = some Config.idGear ∧ idOf .indicator = some Config.idIndicator ∧ ∀ k, idOf k ≠ some strayId := by
  obtain ⟨a, b, c, d⟩ := strayId_ne
  refine ⟨rfl, rfl, fun k h => ?_⟩
  cases k with
  | gear => exact a (Option.some.inj h).symm
  | speed => exact b (Option.some.inj h).symm
  | rpm => exact c (Option.some.inj h).symm
  | indicator => exact d (Option.some.inj h).symm
  | unknown => cases h

theorem test_w_stepRunsTheScriptedInstruction :
    ((scripted [word .op4 0b1101 .c] State.reset).feed = [word .op4 0b1101 .c] ∧
        decode (word .op4 0b1101 .c) = .ok .timerFire) ∧
      (scripted [word .op4 1 .c] State.reset).feed = [word .op4 1 .c] ∧
        decode (word .op4 1 .c) = .error .noSuchAgent := ⟨⟨rfl, rfl⟩, rfl, rfl⟩

theorem test_w_scheduledStepIsOfAnEnabledAgent : State.reset.feed = [] := rfl

/-- Phases 0 to 4 and 5, 7 on a producer, 0, 1 and 2 on `C`. -/
theorem test_w_sequencersPerformTheirLists (k : Phase) :
    { State.reset with p1 := { ProducerNode.reset with phase := k } }.p1.phase = k ∧
      { State.reset with p2 := { ProducerNode.reset with phase := k } }.p2.phase = k ∧
      { State.reset with c := { ConsumerNode.reset with phase := k } }.c.phase = k ∧
      4 < (5 : Phase).toNat ∧ 4 < (7 : Phase).toNat ∧ 1 < (2 : Phase).toNat := ⟨rfl, rfl, rfl, by decide⟩

theorem test_w_stepKeepsTheInvariants :
    (scripted [tagWord 0xD .c] alarmState).Inv ∧
      ∃ t, step (scripted [tagWord 0xD .c] alarmState) = .next t := ⟨inv_scripted _ alarm_inv, _, rfl⟩

theorem test_w_invariantsRuleOutFaults : alarmState.Inv := alarm_inv

theorem test_w_freeRunNeverStops : alarmState.Inv ∧ alarmState.feed = [] := ⟨alarm_inv, rfl⟩

theorem test_w_instructionsInContractComplete :
    alarmState.Inv ∧ InContract alarmState (.sample .p1 999) ∧ InContract alarmState (.sample .p2 99999) ∧
      InContract alarmState (.canTx .c .gear 1 [8]) ∧
      InContract alarmState (.canTx .p1 .rpm 8 [1, 2, 3, 4, 5, 6, 7, 8]) ∧ InContract alarmState (.busDeliver .p1) ∧
      InContract alarmState .tickIsr ∧ InContract alarmState .dispatch := by
  refine ⟨alarm_inv, ?_, ?_, ?_, ?_, rfl, rfl, trivial⟩ <;> simp only [InContract] <;> decide

theorem test_w_keyEdgeFollowsItsTruthTable :
    (Config.kInc ≠ Config.allReleased ∧ (State.reset.prod .p1).armed = true) ∧
      (Config.kHaz ≠ Config.allReleased ∧
        (({ State.reset with p2 := { ProducerNode.reset with armed := false } } : State).prod .p2).armed = false) :=
  ⟨⟨keysP1_distinct.2.2.2.1, rfl⟩, keysP2_distinct.2.2.2.2.2.2.2.2.2, rfl⟩

/-- Reads 0 and 1 of a press and a release. -/
theorem test_w_oneKeyEventPerPressedRun :
    let ms := [Config.kInc, Config.allReleased]
    (ms[0]? = some Config.kInc ∧ ∃ kev, (edgeEvents .p1 ms State.reset)[0]? = some kev ∧ kev.valid = true) ∧
      (ms[1]? = some Config.allReleased ∧
        ∃ kev, (edgeEvents .p1 ms State.reset)[1]? = some kev ∧ kev.valid = false) := by
  have h : ¬ Config.kInc = Config.allReleased := keysP1_distinct.2.2.2.1
  simp [edgeEvents, exec, execKeyEdge, edgeRead, edge, setArmed, reportEvent, reportNone, State.reset,
    ProducerNode.reset, State.setProd, State.prod, State.advance, State.setPhase, Producer.role, h]

theorem test_w_gearStepAppliesTheKeyEvent :
    State.reset.p1.kev.valid = false ∧ (gearState ⟨true, Config.kInc⟩ 7).p1.kev = ⟨true, Config.kInc⟩ ∧
      (gearState ⟨true, Config.kDec⟩ 8).p1.kev = ⟨true, Config.kDec⟩ ∧
      (gearState ⟨true, Config.kCol⟩ 0).p1.kev = ⟨true, Config.kCol⟩ ∧
      (gearState ⟨true, strayMask1⟩ 1).p1.kev.mask ≠ Config.kInc ∧
      (gearState ⟨true, strayMask1⟩ 1).p1.kev.mask ≠ Config.kDec ∧
      (gearState ⟨true, strayMask1⟩ 1).p1.kev.mask ≠ Config.kCol :=
  ⟨rfl, rfl, rfl, rfl, strayMask1_ne.1, strayMask1_ne.2.1, strayMask1_ne.2.2.1⟩

theorem test_w_onlyTheCollisionKeySetsTheSentinel :
    ∃ t, exec .gearStep (gearState ⟨true, Config.kCol⟩ 7) = .next t ∧
      (gearState ⟨true, Config.kCol⟩ 7).gear.toNat < 8 ∧ t.gear.toNat = 8 := by
  refine ⟨({ gearState ⟨true, Config.kCol⟩ 7 with gear := 8 }).advance .p1, ?_, by decide, by decide⟩
  simp [exec, execGearStep, gearKeyEvent, gearState]
  rfl

theorem test_w_indStepAppliesTheKeyEvent :
    State.reset.p2.kev.valid = false ∧ (indState ⟨true, Config.kOff⟩ .left).p2.kev = ⟨true, Config.kOff⟩ ∧
      (indState ⟨true, Config.kLeft⟩ .hazard).p2.kev = ⟨true, Config.kLeft⟩ ∧
      (indState ⟨true, Config.kRight⟩ .off).p2.kev = ⟨true, Config.kRight⟩ ∧
      (indState ⟨true, Config.kHaz⟩ .right).p2.kev = ⟨true, Config.kHaz⟩ ∧
      (indState ⟨true, strayMask2⟩ .left).p2.kev.mask ≠ Config.kOff ∧
      (indState ⟨true, strayMask2⟩ .left).p2.kev.mask ≠ Config.kLeft ∧
      (indState ⟨true, strayMask2⟩ .left).p2.kev.mask ≠ Config.kRight ∧
      (indState ⟨true, strayMask2⟩ .left).p2.kev.mask ≠ Config.kHaz :=
  ⟨rfl, rfl, rfl, rfl, rfl, strayMask2_ne.1, strayMask2_ne.2.1, strayMask2_ne.2.2.1, strayMask2_ne.2.2.2.1⟩

theorem test_w_txSpeedStagesTheSpeedDigits :
    (numState 0).p1.num.toNat ≤ 999 ∧ (numState 999).p1.num.toNat ≤ 999 := by decide

theorem test_w_txRpmStagesTheRpmDigits :
    (numState 0).p2.num.toNat ≤ 99999 ∧ (numState 99999).p2.num.toNat ≤ 99999 := by decide

/-- 9 has one digit, 10 has two. -/
theorem test_w_encNumGivesTheDecimalDigits :
    (0 < 9 ∧ 9 < 10 ^ 1 ∧ ∀ k', k' < 1 → 10 ^ k' ≤ 9) ∧ (0 < 10 ∧ 10 < 10 ^ 2 ∧ ∀ k', k' < 2 → 10 ^ k' ≤ 10) := by
  decide

theorem test_w_decNumInvertsEncNum : encNum 7 = encNum 7 := rfl

theorem test_w_memReadAfterMemWrite :
    ([] : List Byte).length ≤ 8 ∧ ([1, 2, 3, 4, 5, 6, 7, 8] : List Byte).length ≤ 8 ∧
      0 ≤ ([] : List Byte).length ∧ 8 ≤ ([1, 2, 3, 4, 5, 6, 7, 8] : List Byte).length := by decide

/-- The first clause at lengths 1 and 8, the second at each of its reasons. -/
theorem test_w_canTxStagesOrRefuses :
    (idOf .gear = some Config.idGear ∧ 1 ≤ (1 : Len).toNat ∧ (1 : Len).toNat ≤ 8 ∧
        ([8] : List Byte).length = (1 : Len).toNat) ∧
      (1 ≤ (8 : Len).toNat ∧ (8 : Len).toNat ≤ 8 ∧
        ([1, 2, 3, 4, 5, 6, 7, 8] : List Byte).length = (8 : Len).toNat) ∧
      Kind.unknown = .unknown ∧ (0 : Len) = 0 ∧ 8 < (9 : Len).toNat ∧ ([] : List Byte).length ≠ (1 : Len).toNat := by
  refine ⟨⟨rfl, ?_⟩, ?_⟩ <;> decide

theorem test_w_secondStagingLeavesNothingOfTheFirst :
    ∃ t, exec (.canTx .p1 .rpm 2 [0x31, 0x32]) txState = .next t := ⟨_, rfl⟩

theorem test_w_busDeliverCopiesTheWholeFrame :
    (State.reset.tx .p1).req = false ∧ (txState.tx .p1).req = true ∧
      memRead (txSlot .p1) (txState.tx .p1).len.toNat txState.mem = .ok [2] := ⟨rfl, rfl, rfl⟩

theorem test_w_canRxTakesTheFrameOrReportsNone :
    ((rxState Config.idRpm [0x39]).c.rx.full = true ∧
        memRead .crx (rxState Config.idRpm [0x39]).c.rx.len.toNat (rxState Config.idRpm [0x39]).mem = .ok [0x39]) ∧
      State.reset.c.rx.full = false := ⟨⟨rfl, rfl⟩, rfl⟩

/-- Every row's clause, and the clauses in which a row does nothing. -/
theorem test_w_frameRowsTakeTheirOwnKind (id : Ident) :
    ((rxState id [1]).c.rx.full = true ∧ (rxState id [1]).c.rx.id = id ∧
        memRead .crx (rxState id [1]).c.rx.len.toNat (rxState id [1]).mem = .ok [1]) ∧
      (rxState strayId [1]).c.rx.id ≠ Config.idGear ∧ (rxState strayId [1]).c.rx.id ≠ Config.idSpeed ∧
      (rxState strayId [1]).c.rx.id ≠ Config.idRpm ∧ (rxState strayId [1]).c.rx.id ≠ Config.idIndicator ∧
      (∀ k, idOf k ≠ some strayId) ∧ kindOf Config.idGear ≠ .unknown ∧ State.reset.c.rx.full = false :=
  ⟨⟨rfl, rfl, rfl⟩, strayId_ne.1, strayId_ne.2.1, strayId_ne.2.2.1, strayId_ne.2.2.2,
   test_w_kindOfInvertsIdOf.2.2, by simp, rfl⟩

theorem test_w_frameNoneReportsNoMessage :
    State.reset.c.rx.full = false ∧ (rxState Config.idGear []).c.rx.len = 0 ∧
      (rxState Config.idGear [1]).c.rx.full = true ∧ (rxState Config.idGear [1]).c.rx.len ≠ 0 :=
  ⟨rfl, rfl, rfl, by simp [rxState]⟩

/-- Two senders with a tick between (VT12), and one sender that stages again between (S7, schedule b); then a step and the
poll. -/
theorem test_w_laterDeliveryReplacesTheUnreadFrame :
    (∃ t u v x, exec (.busDeliver .p1) txState = .next t ∧ execAll [.timerFire] t = .next u ∧
        memRead (txSlot .p2) (u.tx .p2).len.toNat u.mem = .ok [1] ∧ exec (.busDeliver .p2) u = .next v ∧
        execAll [.tickIsr] v = .next x) ∧
      (∃ t u v x, exec (.busDeliver .p1) txState = .next t ∧ execAll [.txSpeed] t = .next u ∧
        memRead (txSlot .p1) (u.tx .p1).len.toNat u.mem = .ok [0x30, 0x30] ∧ exec (.busDeliver .p1) u = .next v ∧
        execAll [] v = .next x) ∧
      (¬ isPoll .timerFire ∧ Instr.timerFire ≠ .reset .c) ∧ (¬ isPoll .txSpeed ∧ Instr.txSpeed ≠ .reset .c) ∧
      ¬ isPoll .tickIsr ∧ Instr.tickIsr ≠ .reset .c ∧ Instr.tickIsr ≠ .busDeliver .p1 ∧
        Instr.tickIsr ≠ .busDeliver .p2 := by
  refine ⟨⟨_, _, _, _, rfl, rfl, rfl, rfl, rfl⟩, ⟨_, _, _, _, rfl, rfl, rfl, rfl, rfl⟩, ?_⟩
  simp [isPoll]

/-- A slot that becomes full, one whose unread frame is replaced, and one that is kept. -/
theorem test_w_framesArriveByDeliveryOnly :
    (∃ t, exec (.busDeliver .p1) txState = .next t ∧ (txState.rx .c).full = false ∧ (t.rx .c).full = true) ∧
      (∃ t, exec (.busDeliver .p1) alarmState = .next t ∧ (alarmState.rx .c).full = true ∧ (t.rx .c).full = true) ∧
      ∃ t, exec .dispatch alarmState = .next t ∧ (t.rx .c).full = true :=
  ⟨⟨_, rfl, rfl, rfl⟩, ⟨_, rfl, rfl, rfl⟩, _, rfl, rfl⟩

/-- Two states that differ in a receive slot of `P1`, in its registers and its bytes. -/
theorem test_w_producersNeverReadTheirReceiveSlot :
    SameButProducerRx txState
      ((txState.setRx .p1 ⟨strayId, 2, true⟩).setMem (memWrite .p1rx [7, 9] txState.mem)) := by
  refine ⟨rfl, fun a h _ => ?_⟩
  have e := slotWritten_memWrite (bytes := [7, 9]) (by decide) .p1rx txState.mem a
  rw [h] at e
  exact (e.trans (if_neg Bool.false_ne_true)).symm

theorem test_w_secondTransmissionIsTheOneReceived :
    ∃ t1 t2, exec (.canTx (Producer.p2).role .rpm 3 [0x31, 0x32, 0x33]) State.reset = .next t1 ∧
      exec (.canTx (Producer.p2).role .indicator 1 [3]) t1 = .next t2 := ⟨_, _, rfl, rfl⟩

/-- The first byte at 0, 7, 8, 9 and 255, in both modes. -/
theorem test_w_dispatchGear (m : Mode) (v : Byte) :
    (msgState m .gear [v] 0).c.mode = m ∧ (msgState m .gear [v] 0).c.msg.len ≠ 0 ∧
      (msgState m .gear [v] 0).c.msg.kind = .gear ∧
      readByte (msgState m .gear [v] 0).mem (slotBase .cmsg) = some v :=
  ⟨rfl, by simp [msgState], rfl, rfl⟩

theorem test_w_dispatchPrintsSpeedAndRpmAsReceived (k : Kind) :
    (msgState .normal k [0x30, 0x35] 0).c.mode = .normal ∧ (msgState .normal k [0x30, 0x35] 0).c.msg.len ≠ 0 ∧
      (msgState .normal k [0x30, 0x35] 0).c.msg.kind = k ∧
      memRead .cmsg (msgState .normal k [0x30, 0x35] 0).c.msg.len.toNat (msgState .normal k [0x30, 0x35] 0).mem =
        .ok [0x30, 0x35] := ⟨rfl, by simp [msgState], rfl, rfl⟩

/-- The first byte at 0 to 3, 4 and 255; the tick at the threshold and after it. -/
theorem test_w_dispatchIndicatorDrivesBothLamps (v : Byte) (t : Tick) :
    (msgState .normal .indicator [v] t).c.mode = .normal ∧ (msgState .normal .indicator [v] t).c.msg.len ≠ 0 ∧
      (msgState .normal .indicator [v] t).c.msg.kind = .indicator ∧
      readByte (msgState .normal .indicator [v] t).mem (slotBase .cmsg) = some v ∧
      (10000 : Tick).toNat ≤ 10000 ∧ ¬ (10001 : Tick).toNat ≤ 10000 :=
  ⟨rfl, by simp [msgState], rfl, rfl, by decide, by decide⟩

theorem test_w_dispatchDropsSilently :
    State.reset.c.msg.len = 0 ∧ (msgState .normal .unknown [1] 0).c.msg.kind = .unknown ∧
      ((msgState .collision .speed [0x31] 0).c.mode = .collision ∧
        (msgState .collision .speed [0x31] 0).c.msg.kind ≠ .gear) := ⟨rfl, rfl, rfl, by decide⟩

theorem test_w_modeFollowsTheLastGearMessage :
    ((∃ t, exec .dispatch (msgState .normal .gear [8] 0) = .next t) ∧ (msgState .normal .gear [8] 0).c.msg.len ≠ 0 ∧
        (msgState .normal .gear [8] 0).c.msg.kind = .gear) ∧
      (∃ t, exec .dispatch (msgState .collision .speed [0x31] 0) = .next t) ∧
        (msgState .collision .speed [0x31] 0).c.msg.kind ≠ .gear :=
  ⟨⟨⟨_, rfl⟩, by decide, rfl⟩, ⟨_, rfl⟩, by decide⟩

theorem test_w_modeRowsAreTheArmsOfDispatch :
    State.reset.c.mode = .normal ∧ alarmState.c.mode = .collision ∧ State.reset.c.msg.len = 0 ∧
      (∃ t, exec .modeNormal (msgState .normal .gear [8] 0) = .next t) ∧
      ∃ t, exec .modeCollision alarmState = .next t := ⟨rfl, rfl, rfl, ⟨_, rfl⟩, _, rfl⟩

theorem test_w_gearByteRowsAreTheArmsOfTheHandlers (v : Byte) :
    (readByte (msgState .normal .gear [v] 0).mem (slotBase .cmsg) = some v ∧
        (msgState .normal .gear [v] 0).c.msg.len ≠ 0 ∧ (msgState .normal .gear [v] 0).c.msg.kind = .gear) ∧
      (readByte (msgState .normal .speed [v] 0).mem (slotBase .cmsg) = some v ∧
        (msgState .normal .speed [v] 0).c.msg.kind ≠ .gear) ∧
      State.reset.c.msg.len = 0 ∧ (7 : Byte).toNat ≤ 7 ∧ 9 ≤ (9 : Byte).toNat ∧ (7 : Byte) ≠ 8 :=
  ⟨⟨rfl, by simp [msgState], rfl⟩, ⟨rfl, by simp [msgState]⟩, rfl, by decide⟩

theorem test_w_indByteRowsAreTheArmsOfTheHandler (v : Byte) :
    (readByte (msgState .normal .indicator [v] 0).mem (slotBase .cmsg) = some v ∧
        (msgState .normal .indicator [v] 0).c.mode = .normal ∧ (msgState .normal .indicator [v] 0).c.msg.len ≠ 0 ∧
        (msgState .normal .indicator [v] 0).c.msg.kind = .indicator) ∧
      (readByte (msgState .collision .indicator [v] 0).mem (slotBase .cmsg) = some v ∧
        (msgState .collision .indicator [v] 0).c.mode = .collision) ∧
      State.reset.c.msg.len = 0 ∧ 4 ≤ (4 : Byte).toNat ∧ (255 : Byte) ≠ 4 ∧ (4 : Byte) ≠ 0 ∧ (4 : Byte) ≠ 1 ∧ (4 : Byte) ≠ 2 ∧ (4 : Byte) ≠ 3 :=
  ⟨⟨rfl, rfl, by simp [msgState], rfl⟩, ⟨rfl, rfl⟩, rfl, by decide⟩

theorem test_w_lampsAreFrozenInCollision :
    ∃ t, exec .dispatch alarmState = .next t ∧ alarmState.c.mode = .collision ∧ Instr.dispatch ≠ .reset .c :=
  ⟨_, rfl, rfl, by decide⟩

/-- By a GEAR message and by a reset. -/
theorem test_w_onlyANonSentinelGearEndsTheAlarm :
    (∃ t, exec .dispatch (msgState .collision .gear [3] 0) = .next t ∧
        (msgState .collision .gear [3] 0).c.mode = .collision ∧ t.c.mode = .normal) ∧
      ∃ t, exec (.reset .c) alarmState = .next t ∧ alarmState.c.mode = .collision ∧ t.c.mode = .normal :=
  ⟨⟨_, rfl, rfl, rfl⟩, _, rfl, rfl, rfl⟩

theorem test_w_outputTraceIsAppendOnly :
    ∃ t, exec .dispatch (msgState .normal .gear [8] 0) = .next t ∧ Instr.dispatch ≠ .reset .c := ⟨_, rfl, by decide⟩

theorem test_w_blinkFollowsItsTable :
    (0 : Tick).toNat ≤ 10000 ∧ (10000 : Tick).toNat ≤ 10000 ∧ 10000 < (10001 : Tick).toNat := by decide

theorem test_w_tickInterruptIsRaisedAndTaken :
    State.reset.c.tickIf = false ∧ alarmState.c.tickIf = true := ⟨rfl, rfl⟩

theorem test_w_ticksCountModuloTickMod :
    State.reset.c.tick.toNat < 20000 ∧ alarmState.c.tick.toNat < 20000 := by decide

/-- Each clause's latch written once. -/
theorem test_w_latchesAreWrittenByTheirOperationsOnly :
    (∃ t, exec (.reset .p1) alarmState = .next t ∧ t.gear ≠ alarmState.gear) ∧
      (∃ t, exec (.reset .p2) (indState ⟨false, 0⟩ .left) = .next t ∧ t.ind ≠ (indState ⟨false, 0⟩ .left).ind) ∧
      (∃ t, exec .tickIsr alarmState = .next t ∧ t.c.tick ≠ alarmState.c.tick) ∧
      (∃ t, exec .dispatch (msgState .normal .gear [8] 0) = .next t ∧ t.c.mode ≠ .normal) ∧
      ∃ t, exec (.keyAllReleased .p2) { State.reset with p2 := { ProducerNode.reset with armed := false } } = .next t ∧
        (t.prod .p2).armed ≠ false :=
  ⟨⟨_, rfl, by decide⟩, ⟨_, rfl, by decide⟩, ⟨_, rfl, by decide⟩, ⟨_, rfl, by decide⟩, _, rfl, Bool.noConfusion⟩

/-- One instruction on each node. -/
theorem test_w_nodesAreCoupledByDeliveryOnly :
    (∃ t, exec .txGear alarmState = .next t ∧ instrNode .txGear = some .p1) ∧
      (∃ t, exec .txInd alarmState = .next t ∧ instrNode .txInd = some .p2) ∧
      ∃ t, exec .canRx alarmState = .next t ∧ instrNode .canRx = some .c := ⟨⟨_, rfl, rfl⟩, ⟨_, rfl, rfl⟩, _, rfl, rfl⟩

end Sys2Proof.Tests
end

section
/-! SUPPORT. The payload memory (20_memory.md R62): what was written to a slot is read back. -/

namespace Sys2Proof.Machine

/-- Any prefix of the bytes last written to a slot is read back in order (R62). -/
theorem SlotWritten.memRead_take {m m' : Memory} {sl : Slot} {bytes : List Byte} {n : Nat}
    (h : SlotWritten m m' sl bytes) (hlen : bytes.length ≤ 8) (hn : n ≤ bytes.length) :
    memRead sl n m' = .ok (bytes.take n) := by
  have htake : (bytes.take n).length = n := List.length_take_of_le hn
  have hbytes : ∀ i, i < (bytes.take n).length → readByte m' (slotBase sl + i) = (bytes.take n)[i]? := fun i hi => by
    have hin : i < n := htake ▸ hi
    rw [h.inside (by omega), List.getElem?_take_of_lt hin]
  simpa only [htake] using memRead_eq (by omega) hbytes

/-- Settles O29, from what `MemWrite` does to every address. -/
theorem memReadAfterMemWrite : Obligations.MemReadAfterMemWrite := by
  intro m sl bytes hlen
  have hwritten : SlotWritten m (memWrite sl bytes m) sl bytes := slotWritten_memWrite hlen sl m
  exact ⟨hwritten, fun n hn => hwritten.memRead_take hlen hn⟩

end Sys2Proof.Machine
end

section
/-! SUPPORT. The key reads (42_keys.md R182, R183): the event of a STATE_CHANGE read, and its end on a producer. -/

namespace Sys2Proof.Machine

/-- The event column of the truth table (R183): only a pressed mask on an armed latch is an event. -/
@[simp] theorem edge_event (armed : Bool) (m : KeyMask) :
    (edge armed m).2 = (decide (m ≠ Config.allReleased) && armed) := by
  unfold edge
  by_cases hm : m = Config.allReleased
  · simp [hm]
  · cases armed <;> simp [hm]

/-- The key event that a STATE_CHANGE read leaves (R182). -/
theorem edgeRead_kev (n : Producer) (m : KeyMask) (s : State) :
    ((edgeRead n m s).prod n).kev =
      if m ≠ Config.allReleased ∧ (s.prod n).armed = true then ⟨true, m⟩ else ⟨false, Config.freeMask s.free⟩ := by
  unfold edgeRead
  by_cases hevent : m ≠ Config.allReleased ∧ (s.prod n).armed = true
  · simp [hevent, reportEvent]
  · have hnone : (edge (s.prod n).armed m).2 = false := by simpa using hevent
    cases n <;> simp only [hnone, if_neg hevent] <;> rfl

/-- A producer's cycle has five phases (R29). -/
theorem nextPhase_producer (n : Producer) (p : Phase) :
    nextPhase n.role p = BitVec.ofNat 3 ((p.toNat + 1) % 5) := by cases n <;> rfl

/-- The end of an operation of a producer, after its registers were written, moves the phase in them and nothing else. -/
theorem State.advance_setProd_free (n : Producer) (r : ProducerNode) (f : Nat) (s : State) :
    ({ s.setProd n r with free := f } : State).advance n.role =
      { s.setProd n { r with phase := nextPhase n.role r.phase } with free := f } := by cases n <;> rfl

/-- Settles O15: the frame is what any STATE_CHANGE read can do, the three cases are the event it leaves. -/
theorem keyEdgeFollowsItsTruthTable : Obligations.KeyEdgeFollowsItsTruthTable := by
  intro n m s
  obtain ⟨kev, f, hread⟩ := edgeRead_effect n m s
  have hkev : kev =
      if m ≠ Config.allReleased ∧ (s.prod n).armed = true then ⟨true, m⟩ else ⟨false, Config.freeMask s.free⟩ := by
    rw [← edgeRead_kev, hread]
    cases n <;> rfl
  refine ⟨kev, f, ?frame, fun hreleased => ?released, fun hpressed harmed => ?event, fun _ hheld => ?held⟩
  case frame =>
    calc exec (.keyEdge n m) s
        = .next ((edgeRead n m s).advance n.role) := rfl
      _ = _ := by rw [hread, State.advance_setProd_free, nextPhase_producer]
  case released => rw [hkev, if_neg fun h => h.1 hreleased]
  case event => rw [hkev, if_pos ⟨hpressed, harmed⟩]
  case held => rw [hkev, if_neg fun h => by simp [hheld] at h]

end Sys2Proof.Machine
end

section
/-! SUPPORT. The numeric encoding (41_codec.md R164): how many bytes it has. -/

namespace Sys2Proof.Machine

/-- A number below `10 ^ k` has at most `k` digits (R165), whatever the recursion's bound. -/
theorem digitsWithin_length_le {k : Nat} (hk : 1 ≤ k) (fuel : Nat) {v : Nat} (hv : v < 10 ^ k) :
    (digitsWithin fuel v).length ≤ k := by
  induction fuel generalizing k v with
  | zero => simpa [digitsWithin] using hk
  | succ fuel ih =>
    by_cases hdigit : v < 10
    · simpa [digitsWithin, hdigit] using hk
    · obtain ⟨j, rfl⟩ : ∃ j, k = j + 1 := ⟨k - 1, by omega⟩
      have hj : 1 ≤ j := Nat.pos_of_ne_zero fun h0 => hdigit (by simpa [h0] using hv)
      have hrest : (digitsWithin fuel (v / 10)).length ≤ j := ih hj (by rw [pow_succ] at hv; omega)
      simpa [digitsWithin, hdigit] using hrest

theorem encNum_ne_nil (v : Nat) : encNum v ≠ [] := by
  by_cases hv : v = 0
  · simp [hv, encNum_zero]
  · simpa [encNum_pos hv] using digitsWithin_ne_nil v v

/-- `ENC_NUM` of a number below `10 ^ k` is at most `k` bytes, for `k` at least 2: zero is `"00"` (R164, R166). -/
theorem encNum_length_le {v k : Nat} (hk : 2 ≤ k) (hv : v < 10 ^ k) : (encNum v).length ≤ k := by
  by_cases hzero : v = 0
  · simpa [hzero, encNum_zero] using hk
  · simpa [encNum_pos hzero] using digitsWithin_length_le (by omega) v hv

end Sys2Proof.Machine
end

section
/-! SUPPORT. The producers (43_producers.md R195, R197 to R200): the indicator selector and the four transmissions. -/

namespace Sys2Proof.Machine

/-! ### The indicator selector -/

/-- `IND.STEP` leaves the state its key event selects, or the old one without such an event, and moves the phase. -/
theorem exec_indStep (s : State) :
    exec .indStep s = .next
      { s with
          ind := (indKeyEvent s).getD s.ind
          p2 := { s.p2 with phase := BitVec.ofNat 3 ((s.p2.phase.toNat + 1) % 5) } } := by
  show execIndStep s = _
  unfold execIndStep
  cases indKeyEvent s <;> rfl

theorem indKeyEvent_of_not_valid {s : State} (h : s.p2.kev.valid = false) : indKeyEvent s = none := by
  simp [indKeyEvent, h]

theorem indKeyEvent_of_event {s : State} {m : KeyMask} (h : s.p2.kev = ⟨true, m⟩) :
    indKeyEvent s = indKeyOf m := by simp [indKeyEvent, h]

/-- A mask that is none of the four keys selects nothing (R105). -/
theorem indKeyOf_eq_none {m : KeyMask} (hoff : m ≠ Config.kOff) (hleft : m ≠ Config.kLeft)
    (hright : m ≠ Config.kRight) (hhaz : m ≠ Config.kHaz) : indKeyOf m = none := by
  simp [indKeyOf, hoff, hleft, hright, hhaz]

/-- An event whose mask selects nothing is as good as no event (R195). -/
theorem indKeyEvent_of_indKeyOf_none {s : State} (h : indKeyOf s.p2.kev.mask = none) : indKeyEvent s = none := by
  simp [indKeyEvent, h]

/-- Settles O22: the state left is the one the event's mask selects, by the key map. -/
theorem indStepAppliesTheKeyEvent : Obligations.IndStepAppliesTheKeyEvent := by
  intro s
  refine ⟨(indKeyEvent s).getD s.ind, exec_indStep s, fun hnone => ?noEvent, fun hkey => ?off, fun hkey => ?left,
    fun hkey => ?right, fun hkey => ?hazard, fun hoff hleft hright hhaz => ?unmatched⟩
  case noEvent => simp [indKeyEvent_of_not_valid hnone]
  case off => simp [indKeyEvent_of_event hkey]
  case left => simp [indKeyEvent_of_event hkey]
  case right => simp [indKeyEvent_of_event hkey]
  case hazard => simp [indKeyEvent_of_event hkey]
  case unmatched => simp [indKeyEvent_of_indKeyOf_none (indKeyOf_eq_none hoff hleft hright hhaz)]

/-! ### The transmissions -/

/-- A producer's transmission of one to eight bytes stages them whole with their identifier and length, raises the
request and moves the phase, whatever was staged before, and changes nothing else (R141, R29). -/
theorem transmit_advance_stages (n : Producer) {k : Kind} {id : Ident} {payload : List Byte} (hid : idOf k = some id)
    (hpos : payload ≠ []) (hmax : payload.length ≤ 8) (s : State) :
    ∃ m : Memory, SlotWritten s.mem m (txSlot n.role) payload ∧
      andThen (transmit n.role (k, payload, payload.length) s) (fun t => t.advance n.role) = .next
        { s.setProd n { s.prod n with
            tx := ⟨id, BitVec.ofNat 4 payload.length, true⟩
            phase := BitVec.ofNat 3 (((s.prod n).phase.toNat + 1) % 5) } with
          mem := m } := by
  refine ⟨memWrite (txSlot n.role) payload s.mem, slotWritten_memWrite hmax _ _, ?_⟩
  have hstaged : transmit n.role (k, payload, payload.length) s = .next _ :=
    transmit_eq_next.2 ⟨id, hid, by simpa using hpos, hmax, rfl, rfl⟩
  rw [hstaged, andThen_next, ← nextPhase_producer]
  cases n <;> rfl

/-- The length register holds a payload's length (R21). -/
theorem toNat_lenOf {payload : List Byte} (hmax : payload.length ≤ 8) :
    (BitVec.ofNat 4 payload.length : Len).toNat = payload.length := by
  rw [BitVec.toNat_ofNat]; omega

/-- A producer's transmission of a number of at most `d` digits, by `transmit_advance_stages` (R170, R171). -/
theorem transmit_encNum_stages (n : Producer) {k : Kind} {id : Ident} {v d : Nat} (hid : idOf k = some id)
    (hd : 2 ≤ d) (hd8 : d ≤ 8) (hv : v < 10 ^ d) (s : State) :
    ∃ (m : Memory) (payload : List Byte) (len : Len),
      payload = encNum v ∧ len.toNat = payload.length ∧ 1 ≤ len.toNat ∧ len.toNat ≤ d ∧
      SlotWritten s.mem m (txSlot n.role) payload ∧
      andThen (transmit n.role (k, encNum v, (encNum v).length) s) (fun t => t.advance n.role) = .next
        { s.setProd n { s.prod n with
            tx := ⟨id, len, true⟩
            phase := BitVec.ofNat 3 (((s.prod n).phase.toNat + 1) % 5) } with
          mem := m } := by
  have hmax : (encNum v).length ≤ d := encNum_length_le hd hv
  have hpos : 0 < (encNum v).length := List.length_pos_iff.2 (encNum_ne_nil v)
  have hlen := toNat_lenOf (payload := encNum v) (by omega)
  obtain ⟨m, hwritten, hexec⟩ := transmit_advance_stages n hid (encNum_ne_nil v) (by omega) s
  exact ⟨m, encNum v, BitVec.ofNat 4 (encNum v).length, rfl, hlen, by omega, by omega, hwritten, hexec⟩

/-- Settles O23: the gear's byte as a producer's transmission. -/
theorem txGearStagesTheGearFrame : Obligations.TxGearStagesTheGearFrame := fun s =>
  transmit_advance_stages .p1 (k := .gear) (payload := [s.gear.setWidth 8]) rfl (by simp) (by simp) s

/-- Settles O24: a speed up to 999 has at most three digits. -/
theorem txSpeedStagesTheSpeedDigits : Obligations.TxSpeedStagesTheSpeedDigits := fun s hnum =>
  transmit_encNum_stages .p1 (k := .speed) (d := 3) rfl (by decide) (by decide) (by omega) s

/-- Settles O25: an RPM value up to 99999 has at most five digits. -/
theorem txRpmStagesTheRpmDigits : Obligations.TxRpmStagesTheRpmDigits := fun s hnum =>
  transmit_encNum_stages .p2 (k := .rpm) (d := 5) rfl (by decide) (by decide) (by omega) s

/-- Settles O26: the indicator's byte as a producer's transmission, the byte by the states of R101. -/
theorem txIndStagesTheIndicatorFrame : Obligations.TxIndStagesTheIndicatorFrame := by
  intro s
  obtain ⟨m, hwritten, hexec⟩ :=
    transmit_advance_stages .p2 (k := .indicator) (payload := [indByte s.ind]) rfl (by simp) (by simp) s
  refine ⟨m, ?byte, hexec⟩
  cases hind : s.ind <;> rw [hind] at hwritten <;> exact hwritten

end Sys2Proof.Machine
end

section
/-! SUPPORT. The tables read backwards: the identifier of a kind (41_codec.md R160, R161), the byte of an indicator
state (R101), the masks of the key maps (R104, R105). -/

namespace Sys2Proof.Machine

/-- `KIND_OF` answers the kind whose identifier it is given (R160, R161). -/
theorem kindOf_of_idOf {k : Kind} {i : Ident} (h : idOf k = some i) : kindOf i = k := by
  cases k with
  | gear => cases h; exact kindOf_idGear
  | speed => cases h; exact kindOf_idSpeed
  | rpm => cases h; exact kindOf_idRpm
  | indicator => cases h; exact kindOf_idIndicator
  | unknown => cases h

/-- An identifier of a known kind is that kind's own (R161). -/
theorem idOf_kindOf {i : Ident} (h : kindOf i ≠ .unknown) : idOf (kindOf i) = some i := by
  by_cases hgear : i = Config.idGear
  · subst hgear; rw [kindOf_idGear]; rfl
  by_cases hspeed : i = Config.idSpeed
  · subst hspeed; rw [kindOf_idSpeed]; rfl
  by_cases hrpm : i = Config.idRpm
  · subst hrpm; rw [kindOf_idRpm]; rfl
  by_cases hind : i = Config.idIndicator
  · subst hind; rw [kindOf_idIndicator]; rfl
  exact absurd (by simp [kindOf, hgear, hspeed, hrpm, hind]) h

/-- An identifier is foreign exactly if no kind has it (R161). -/
theorem kindOf_eq_unknown_iff (i : Ident) : kindOf i = .unknown ↔ ∀ k, idOf k ≠ some i := by
  refine ⟨fun hunknown k hk => ?_, fun hforeign => ?_⟩
  · rw [← kindOf_of_idOf hk] at hk
    rw [hunknown] at hk
    cases hk
  · by_contra hknown
    exact hforeign _ (idOf_kindOf hknown)

/-- Settles O4, from the two directions of the identifier table. -/
theorem kindOfInvertsIdOf : Obligations.KindOfInvertsIdOf :=
  ⟨fun _ _ => kindOf_of_idOf, fun _ _ _ hk hk' => (kindOf_of_idOf hk).symm.trans (kindOf_of_idOf hk'),
   kindOf_eq_unknown_iff⟩

/-- A byte is an indicator state's exactly if it is that state's byte (R101). -/
theorem indOf_eq_some_iff {v : Byte} {i : Ind} : indOf v = some i ↔ v = indByte i := by
  refine ⟨fun h => ?_, fun h => h ▸ indOf_indByte i⟩
  unfold indOf at h
  split_ifs at h <;> cases h <;> assumption

/-- The mask of a key function of `P1` (R104). -/
def gearMask : GearKey → KeyMask
  | .increment => Config.kInc
  | .decrement => Config.kDec
  | .collision => Config.kCol

/-- The mask of the key of `P2` that selects an indicator state (R105). -/
def indMask : Ind → KeyMask
  | .off => Config.kOff
  | .left => Config.kLeft
  | .right => Config.kRight
  | .hazard => Config.kHaz

/-- The key map of `P1` gives a function for its own mask only (R104). -/
theorem gearKeyOf_eq_some_iff {m : KeyMask} {k : GearKey} : gearKeyOf m = some k ↔ m = gearMask k := by
  refine ⟨fun h => ?_, fun h => ?_⟩
  · unfold gearKeyOf at h
    split_ifs at h <;> cases h <;> assumption
  · subst h
    cases k with
    | increment => exact gearKeyOf_kInc
    | decrement => exact gearKeyOf_kDec
    | collision => exact gearKeyOf_kCol

/-- The key map of `P2` gives a state for its own mask only (R105). -/
theorem indKeyOf_eq_some_iff {m : KeyMask} {i : Ind} : indKeyOf m = some i ↔ m = indMask i := by
  refine ⟨fun h => ?_, fun h => ?_⟩
  · unfold indKeyOf at h
    split_ifs at h <;> cases h <;> assumption
  · subst h
    cases i with
    | off => exact indKeyOf_kOff
    | left => exact indKeyOf_kLeft
    | right => exact indKeyOf_kRight
    | hazard => exact indKeyOf_kHaz

/-- No key of `P1` is `ALL_RELEASED` (R10). -/
theorem gearMask_ne_released (k : GearKey) : gearMask k ≠ Config.allReleased := by
  obtain ⟨-, -, -, hinc, hdec, hcol⟩ := keysP1_distinct
  cases k with
  | increment => exact hinc
  | decrement => exact hdec
  | collision => exact hcol

/-- No key of `P2` is `ALL_RELEASED` (R10). -/
theorem indMask_ne_released (i : Ind) : indMask i ≠ Config.allReleased := by
  obtain ⟨-, -, -, -, -, -, hoff, hleft, hright, hhaz⟩ := keysP2_distinct
  cases i with
  | off => exact hoff
  | left => exact hleft
  | right => exact hright
  | hazard => exact hhaz

end Sys2Proof.Machine
end

section
/-! SUPPORT. The decoder and the encoder (30_encoding.md R90 to R111): what is decoded from the step word of an
instruction, and from which words an instruction is decoded. -/

namespace Sys2Proof

open Machine

/-- The step word of an instruction has no stray bit. -/
theorem encode_bits_lt (i : Instr) : (encode i).bits.toNat < 2 ^ (encode i).format.width := by
  cases i with
  | reserved => exact Laws.TableRow.reserved
  | keyLevel n m => exact Laws.TableRow.keyLevel n m
  | keyEdge n m => exact Laws.TableRow.keyEdge n m
  | sample n v => exact Laws.TableRow.sample n v
  | gearStep => exact Laws.TableRow.gearStep
  | indStep => exact Laws.TableRow.indStep
  | txGear => exact Laws.TableRow.txGear
  | txSpeed => exact Laws.TableRow.txSpeed
  | txRpm => exact Laws.TableRow.txRpm
  | txInd => exact Laws.TableRow.txInd
  | canRx => exact Laws.TableRow.canRx
  | dispatch => exact Laws.TableRow.dispatch
  | busDeliver src => exact Laws.TableRow.busDeliver src
  | timerFire => exact Laws.TableRow.timerFire
  | tickIsr => exact Laws.TableRow.tickIsr
  | reset n => exact Laws.TableRow.reset n
  | canTx n k len payload => exact Laws.TableRow.canTx n k len payload
  | frameGear => exact Laws.TableRow.frameGear
  | frameSpeed => exact Laws.TableRow.frameSpeed
  | frameRpm => exact Laws.TableRow.frameRpm
  | frameIndicator => exact Laws.TableRow.frameIndicator
  | frameUnknown id => exact Laws.TableRow.frameUnknown id
  | frameNone => exact Laws.TableRow.frameNone
  | gearbyteDisplay v => exact Laws.TableRow.gearbyteDisplay v
  | gearbyteSentinel => exact Laws.TableRow.gearbyteSentinel
  | gearbyteOutOfRange v => exact Laws.TableRow.gearbyteOutOfRange v
  | indOff => exact Laws.TableRow.indOff
  | indLeft => exact Laws.TableRow.indLeft
  | indRight => exact Laws.TableRow.indRight
  | indHazard => exact Laws.TableRow.indHazard
  | indIgnored v => exact Laws.TableRow.indIgnored v
  | modeNormal => exact Laws.TableRow.modeNormal
  | modeCollision => exact Laws.TableRow.modeCollision
  | keyP1Increment => exact Laws.TableRow.keyP1Increment
  | keyP1Decrement => exact Laws.TableRow.keyP1Decrement
  | keyP1Collision => exact Laws.TableRow.keyP1Collision
  | keyP2Left => exact Laws.TableRow.keyP2Left
  | keyP2Right => exact Laws.TableRow.keyP2Right
  | keyP2Hazard => exact Laws.TableRow.keyP2Hazard
  | keyP2Off => exact Laws.TableRow.keyP2Off
  | keyAllReleased n => exact Laws.TableRow.keyAllReleased n

/-- The decoder answers for a word exactly if the word has no stray bit and its format's table has a row. -/
theorem decode_eq_ok_iff {w : StepWord} {i : Instr} :
    decode w = .ok i ↔ w.bits.toNat < 2 ^ w.format.width ∧ decodeFormat w = .ok i := by
  unfold decode
  by_cases hbits : w.bits.toNat < 2 ^ w.format.width
  · rw [if_pos hbits]; exact ⟨fun h => ⟨hbits, h⟩, And.right⟩
  · rw [if_neg hbits]; exact ⟨fun h => (by cases h), fun h => absurd h.1 hbits⟩

/-! ### From an instruction to its word and back -/

/-- A value of at most 16 bits is read back from the word's bits. -/
theorem narrow_widen {k : Nat} (hk : k ≤ 16) (v : BitVec k) : (v.setWidth 16 : BitVec 16).setWidth k = v := by
  rw [BitVec.setWidth_setWidth_of_le v hk, BitVec.setWidth_eq]

/-- The arguments of `CAN.TX` are read back from their two fields (log 2). -/
theorem decodePrimitive_encode (n : Role) (k : Kind) (len : Len) (payload : List Byte) :
    decodePrimitive (encode (.canTx n k len payload)) = .ok (.canTx n k len payload) := by
  have hkind : kindCode k < 8 := by cases k <;> decide
  have hlen : len.toNat < 16 := len.isLt
  have hlow : ((BitVec.ofNat 16 (kindCode k + 2 ^ 3 * len.toNat)).extractLsb' 0 3).toNat = kindCode k := by
    rw [BitVec.extractLsb'_toNat, BitVec.toNat_ofNat, Nat.shiftRight_zero]
    omega
  have hhigh : (BitVec.ofNat 16 (kindCode k + 2 ^ 3 * len.toNat)).extractLsb' 3 4 = len := by
    apply BitVec.eq_of_toNat_eq
    rw [BitVec.extractLsb'_toNat, BitVec.toNat_ofNat, Nat.shiftRight_eq_div_pow]
    omega
  simp only [decodePrimitive, encode, plainWord, hlow, hhigh, kindOfCode_kindCode]

/-- A word of an identifier is that identifier's row. -/
theorem decodeFormat_ident (id : Ident) (n : Role) :
    decodeFormat (plainWord .frameId11 (id.setWidth 16) n) = .ok (decodeIdent id) := by
  show Except.ok (decodeIdent ((id.setWidth 16 : BitVec 16).setWidth 11)) = _
  rw [narrow_widen (by decide)]

theorem decodeFormat_gearByte (v : Byte) (n : Role) :
    decodeFormat (plainWord .gearByte (v.setWidth 16) n) = .ok (decodeGearByte v) := by
  show Except.ok (decodeGearByte ((v.setWidth 16 : BitVec 16).setWidth 8)) = _
  rw [narrow_widen (by decide)]

theorem decodeFormat_indByte (v : Byte) (n : Role) :
    decodeFormat (plainWord .indByte (v.setWidth 16) n) = .ok (decodeIndByte v) := by
  show Except.ok (decodeIndByte ((v.setWidth 16 : BitVec 16).setWidth 8)) = _
  rw [narrow_widen (by decide)]

/-- The row of a key of `P1` is read from its mask. -/
theorem decodeMaskP1_gearMask (k : GearKey) :
    decodeMaskP1 (gearMask k) = .ok (match k with
      | .increment => .keyP1Increment
      | .decrement => .keyP1Decrement
      | .collision => .keyP1Collision) := by
  rw [decodeMaskP1, if_neg (gearMask_ne_released k), gearKeyOf_eq_some_iff.2 rfl]
  cases k <;> rfl

/-- The row of a key of `P2` is read from its mask. -/
theorem decodeMaskP2_indMask (x : Ind) :
    decodeMaskP2 (indMask x) = .ok (match x with
      | .off => .keyP2Off
      | .left => .keyP2Left
      | .right => .keyP2Right
      | .hazard => .keyP2Hazard) := by
  rw [decodeMaskP2, if_neg (indMask_ne_released x), indKeyOf_eq_some_iff.2 rfl]
  cases x <;> rfl

/-- Every well-formed instruction is the row of its own word. -/
theorem decodeFormat_encode {i : Instr} (hwf : i.wellFormed = true) : decodeFormat (encode i) = .ok i := by
  cases i with
  | reserved | gearStep | indStep | txGear | txSpeed | txRpm | txInd | canRx | dispatch | timerFire | tickIsr => rfl
  | keyLevel n | keyEdge n | sample n => cases n <;> rfl
  | busDeliver n | reset n => rfl
  | canTx n k len payload => exact decodePrimitive_encode n k len payload
  | frameGear => rw [encode, decodeFormat_ident, decodeIdent, kindOf_idGear]
  | frameSpeed => rw [encode, decodeFormat_ident, decodeIdent, kindOf_idSpeed]
  | frameRpm => rw [encode, decodeFormat_ident, decodeIdent, kindOf_idRpm]
  | frameIndicator => rw [encode, decodeFormat_ident, decodeIdent, kindOf_idIndicator]
  | frameUnknown id =>
    have hforeign : kindOf id = .unknown := of_decide_eq_true hwf
    rw [encode, decodeFormat_ident, decodeIdent, hforeign]
  | frameNone | modeNormal | modeCollision => rfl
  | gearbyteDisplay v =>
    have hclass : gearClass v = .display := of_decide_eq_true hwf
    rw [encode, decodeFormat_gearByte, decodeGearByte, hclass]
  | gearbyteSentinel => rfl
  | gearbyteOutOfRange v =>
    have hclass : gearClass v = .outOfRange := of_decide_eq_true hwf
    rw [encode, decodeFormat_gearByte, decodeGearByte, hclass]
  | indOff | indLeft | indRight | indHazard => rfl
  | indIgnored v =>
    have hnone : indOf v = none := of_decide_eq_true hwf
    rw [encode, decodeFormat_indByte, decodeIndByte, hnone]
  | keyP1Increment => exact decodeMaskP1_gearMask .increment
  | keyP1Decrement => exact decodeMaskP1_gearMask .decrement
  | keyP1Collision => exact decodeMaskP1_gearMask .collision
  | keyP2Left => exact decodeMaskP2_indMask .left
  | keyP2Right => exact decodeMaskP2_indMask .right
  | keyP2Hazard => exact decodeMaskP2_indMask .hazard
  | keyP2Off => exact decodeMaskP2_indMask .off
  | keyAllReleased n => cases n <;> rfl

/-- Settles O1: the word has no stray bit and its format's table has the instruction's row. -/
theorem decodeOfEncodeIsTheInstruction : Obligations.DecodeOfEncodeIsTheInstruction := fun i hwf =>
  decode_eq_ok_iff.2 ⟨encode_bits_lt i, decodeFormat_encode hwf⟩

/-! ### From a word to an instruction and back -/

/-- The word is an instruction's own word, in all that the instruction's row fixes: a well-formed instruction, the
format, the bits, and for a row of a key map the mask. -/
def IsRowOf (w : StepWord) (i : Instr) : Prop :=
  i.wellFormed = true ∧ (encode i).format = w.format ∧ (encode i).bits = w.bits ∧
    (w.format = .keyMaskP1 ∨ w.format = .keyMaskP2 → (encode i).keyIn = w.keyIn)

/-- In a format without key masks the mask port is left open. -/
theorem IsRowOf.of_bits {w : StepWord} {i : Instr} (hwf : i.wellFormed = true) (hformat : (encode i).format = w.format)
    (hbits : (encode i).bits = w.bits) (h1 : w.format ≠ .keyMaskP1) (h2 : w.format ≠ .keyMaskP2) : IsRowOf w i :=
  ⟨hwf, hformat, hbits, fun hmask => (hmask.elim h1 h2).elim⟩

/-- Bits within a width are the narrowed value, widened. -/
theorem widen_narrow {k : Nat} {bits : BitVec 16} (h : bits.toNat < 2 ^ k) :
    ((bits.setWidth k).setWidth 16 : BitVec 16) = bits := by
  apply BitVec.eq_of_toNat_eq
  rw [BitVec.toNat_setWidth, BitVec.toNat_setWidth, Nat.mod_eq_of_lt h, Nat.mod_eq_of_lt bits.isLt]

/-- A producer's operation is decoded for a producer's node. -/
theorem decodeAtProducer_eq_ok {n : Role} {f : Producer → Instr} {i : Instr} (h : decodeAtProducer n f = .ok i) :
    ∃ p, i = f p := by
  unfold decodeAtProducer at h
  split at h <;> cases h
  exact ⟨_, rfl⟩

/-- The instruction's own word is that of an operation, with a tag (R111). -/
def HasTag (tag : BitVec 4) (i : Instr) : Prop :=
  i.wellFormed = true ∧ (encode i).format = .op4 ∧ (encode i).bits = tag.setWidth 16

theorem HasTag.of_toNat {k tag : BitVec 4} {i : Instr} (hi : HasTag k i) (hk : tag.toNat = k.toNat) :
    HasTag tag i := by rwa [BitVec.eq_of_toNat_eq hk]

theorem hasTag_of_decodeAtProducer {n : Role} {f : Producer → Instr} {tag : BitVec 4} {i : Instr}
    (hf : ∀ p, HasTag tag (f p)) (h : decodeAtProducer n f = .ok i) : HasTag tag i := by
  obtain ⟨p, rfl⟩ := decodeAtProducer_eq_ok h
  exact hf p

/-- An operation's tag is the tag of its own word (R111). -/
theorem hasTag_of_decodeTag {tag : BitVec 4} {w : StepWord} {i : Instr} (h : decodeTag tag w = .ok i) :
    HasTag tag i := by
  unfold decodeTag at h
  split at h
  case h_1 hk => cases h; exact .of_toNat (k := 0x0) ⟨rfl, rfl, rfl⟩ hk
  case h_2 hk => exact .of_toNat (k := 0x1) (hasTag_of_decodeAtProducer (fun _ => ⟨rfl, rfl, rfl⟩) h) hk
  case h_3 hk => exact .of_toNat (k := 0x2) (hasTag_of_decodeAtProducer (fun _ => ⟨rfl, rfl, rfl⟩) h) hk
  case h_4 hk => exact .of_toNat (k := 0x3) (hasTag_of_decodeAtProducer (fun _ => ⟨rfl, rfl, rfl⟩) h) hk
  case h_5 hk => cases h; exact .of_toNat (k := 0x4) ⟨rfl, rfl, rfl⟩ hk
  case h_6 hk => cases h; exact .of_toNat (k := 0x5) ⟨rfl, rfl, rfl⟩ hk
  case h_7 hk => cases h; exact .of_toNat (k := 0x6) ⟨rfl, rfl, rfl⟩ hk
  case h_8 hk => cases h; exact .of_toNat (k := 0x7) ⟨rfl, rfl, rfl⟩ hk
  case h_9 hk => cases h; exact .of_toNat (k := 0x8) ⟨rfl, rfl, rfl⟩ hk
  case h_10 hk => cases h; exact .of_toNat (k := 0x9) ⟨rfl, rfl, rfl⟩ hk
  case h_11 hk => cases h; exact .of_toNat (k := 0xA) ⟨rfl, rfl, rfl⟩ hk
  case h_12 hk => cases h; exact .of_toNat (k := 0xB) ⟨rfl, rfl, rfl⟩ hk
  case h_13 hk => cases h; exact .of_toNat (k := 0xC) ⟨rfl, rfl, rfl⟩ hk
  case h_14 hk => cases h; exact .of_toNat (k := 0xD) ⟨rfl, rfl, rfl⟩ hk
  case h_15 hk => cases h; exact .of_toNat (k := 0xE) ⟨rfl, rfl, rfl⟩ hk
  case h_16 =>
    cases h
    have hlt : tag.toNat < 16 := tag.isLt
    exact .of_toNat (k := 0xF) ⟨rfl, rfl, rfl⟩ (show tag.toNat = 15 by grind)

/-- A kind is decoded from its own code (R95). -/
theorem kindCode_of_kindOfCode {code : Nat} {k : Kind} (h : kindOfCode code = some k) : kindCode k = code := by
  unfold kindOfCode at h
  split_ifs at h <;> cases h <;> (symm; assumption)

/-- The two fields of a transmission's word are its bits (log 2). -/
theorem primitive_fields {bits : BitVec 16} (h : bits.toNat < 2 ^ 7) :
    BitVec.ofNat 16 ((bits.extractLsb' 0 3).toNat + 2 ^ 3 * (bits.extractLsb' 3 4).toNat) = bits := by
  apply BitVec.eq_of_toNat_eq
  rw [BitVec.toNat_ofNat, BitVec.extractLsb'_toNat, BitVec.extractLsb'_toNat, Nat.shiftRight_zero,
    Nat.shiftRight_eq_div_pow]
  omega

theorem isRowOf_of_decodePrimitive {w : StepWord} {i : Instr} (hf : w.format = .primitive)
    (hb : w.bits.toNat < 2 ^ 7) (h : decodePrimitive w = .ok i) : IsRowOf w i := by
  unfold decodePrimitive at h
  split at h
  case h_1 k hk =>
    cases h
    refine .of_bits rfl hf.symm ?_ (by simp [hf]) (by simp [hf])
    show BitVec.ofNat 16 (kindCode k + 2 ^ 3 * (w.bits.extractLsb' 3 4).toNat) = w.bits
    rw [kindCode_of_kindOfCode hk, primitive_fields hb]
  case h_2 => cases h

/-- The row of an identifier has that identifier in its word (R94). -/
theorem encode_decodeIdent (id : Ident) :
    (decodeIdent id).wellFormed = true ∧ (encode (decodeIdent id)).format = .frameId11 ∧
      (encode (decodeIdent id)).bits = id.setWidth 16 := by
  have hid := idOf_kindOf (i := id)
  unfold decodeIdent
  cases hkind : kindOf id with
  | gear => rw [hkind] at hid; cases hid (by decide); exact ⟨rfl, rfl, rfl⟩
  | speed => rw [hkind] at hid; cases hid (by decide); exact ⟨rfl, rfl, rfl⟩
  | rpm => rw [hkind] at hid; cases hid (by decide); exact ⟨rfl, rfl, rfl⟩
  | indicator => rw [hkind] at hid; cases hid (by decide); exact ⟨rfl, rfl, rfl⟩
  | unknown => exact ⟨decide_eq_true hkind, rfl, rfl⟩

/-- The row of a GEAR byte has that byte in its word (R107). -/
theorem encode_decodeGearByte (v : Byte) :
    (decodeGearByte v).wellFormed = true ∧ (encode (decodeGearByte v)).format = .gearByte ∧
      (encode (decodeGearByte v)).bits = v.setWidth 16 := by
  unfold decodeGearByte
  cases hclass : gearClass v with
  | display => exact ⟨decide_eq_true hclass, rfl, rfl⟩
  | sentinel => rw [(gearClass_sentinel_iff v).1 hclass]; exact ⟨rfl, rfl, rfl⟩
  | outOfRange => exact ⟨decide_eq_true hclass, rfl, rfl⟩

/-- The row of an INDICATOR byte has that byte in its word (R101). -/
theorem encode_decodeIndByte (v : Byte) :
    (decodeIndByte v).wellFormed = true ∧ (encode (decodeIndByte v)).format = .indByte ∧
      (encode (decodeIndByte v)).bits = v.setWidth 16 := by
  unfold decodeIndByte
  cases hind : indOf v with
  | none => exact ⟨decide_eq_true hind, rfl, rfl⟩
  | some x => rw [indOf_eq_some_iff.1 hind]; cases x <;> exact ⟨rfl, rfl, rfl⟩

/-- A row of the key map of `P1` has the mask it was decoded from (R103, R104). -/
theorem encode_of_decodeMaskP1 {m : KeyMask} {i : Instr} (h : decodeMaskP1 m = .ok i) :
    i.wellFormed = true ∧ (encode i).format = .keyMaskP1 ∧ (encode i).bits = 0 ∧ (encode i).keyIn = m := by
  by_cases hreleased : m = Config.allReleased
  · subst hreleased
    cases h
    exact ⟨rfl, rfl, rfl, rfl⟩
  cases hkey : gearKeyOf m with
  | none => rw [decodeMaskP1, if_neg hreleased, hkey] at h; cases h
  | some k =>
    rw [gearKeyOf_eq_some_iff.1 hkey, decodeMaskP1_gearMask] at h
    rw [gearKeyOf_eq_some_iff.1 hkey]
    cases h
    cases k <;> exact ⟨rfl, rfl, rfl, rfl⟩

/-- A row of the key map of `P2` has the mask it was decoded from (R103, R105). -/
theorem encode_of_decodeMaskP2 {m : KeyMask} {i : Instr} (h : decodeMaskP2 m = .ok i) :
    i.wellFormed = true ∧ (encode i).format = .keyMaskP2 ∧ (encode i).bits = 0 ∧ (encode i).keyIn = m := by
  by_cases hreleased : m = Config.allReleased
  · subst hreleased
    cases h
    exact ⟨rfl, rfl, rfl, rfl⟩
  cases hkey : indKeyOf m with
  | none => rw [decodeMaskP2, if_neg hreleased, hkey] at h; cases h
  | some x =>
    rw [indKeyOf_eq_some_iff.1 hkey, decodeMaskP2_indMask] at h
    rw [indKeyOf_eq_some_iff.1 hkey]
    cases h
    cases x <;> exact ⟨rfl, rfl, rfl, rfl⟩

/-- What a format's table reads from a word without stray bits is a row of that word. -/
theorem isRowOf_of_decodeFormat {w : StepWord} {i : Instr} (hb : w.bits.toNat < 2 ^ w.format.width)
    (h : decodeFormat w = .ok i) : IsRowOf w i := by
  unfold decodeFormat at h
  cases hf : w.format <;> rw [hf] at hb <;> simp only [hf] at h
  case op4 =>
    obtain ⟨hwf, hformat, hbits⟩ := hasTag_of_decodeTag h
    exact .of_bits hwf (hformat.trans hf.symm) (hbits.trans (widen_narrow hb)) (by simp [hf]) (by simp [hf])
  case primitive => exact isRowOf_of_decodePrimitive hf hb h
  case frameId11 =>
    cases h
    obtain ⟨hwf, hformat, hbits⟩ := encode_decodeIdent (w.bits.setWidth 11)
    exact .of_bits hwf (hformat.trans hf.symm) (hbits.trans (widen_narrow hb)) (by simp [hf]) (by simp [hf])
  case frameLen =>
    split at h <;> cases h
    exact .of_bits rfl hf.symm (Eq.symm ‹w.bits = 0›) (by simp [hf]) (by simp [hf])
  case gearByte =>
    cases h
    obtain ⟨hwf, hformat, hbits⟩ := encode_decodeGearByte (w.bits.setWidth 8)
    exact .of_bits hwf (hformat.trans hf.symm) (hbits.trans (widen_narrow hb)) (by simp [hf]) (by simp [hf])
  case indByte =>
    cases h
    obtain ⟨hwf, hformat, hbits⟩ := encode_decodeIndByte (w.bits.setWidth 8)
    exact .of_bits hwf (hformat.trans hf.symm) (hbits.trans (widen_narrow hb)) (by simp [hf]) (by simp [hf])
  case mode1 =>
    cases h
    by_cases hzero : w.bits = 0
    · rw [if_pos hzero]
      exact .of_bits rfl hf.symm hzero.symm (by simp [hf]) (by simp [hf])
    · rw [if_neg hzero]
      have hone : w.bits = 1 := by
        have hpos : w.bits.toNat ≠ 0 := fun h0 => hzero (BitVec.eq_of_toNat_eq h0)
        have hlt : w.bits.toNat < 2 := hb
        exact BitVec.eq_of_toNat_eq (show w.bits.toNat = 1 by omega)
      exact .of_bits rfl hf.symm hone.symm (by simp [hf]) (by simp [hf])
  case keyMaskP1 =>
    obtain ⟨hwf, hformat, hbits, hmask⟩ := encode_of_decodeMaskP1 h
    exact ⟨hwf, hformat.trans hf.symm, hbits.trans (BitVec.eq_of_toNat_eq (Nat.lt_one_iff.1 hb).symm), fun _ => hmask⟩
  case keyMaskP2 =>
    obtain ⟨hwf, hformat, hbits, hmask⟩ := encode_of_decodeMaskP2 h
    exact ⟨hwf, hformat.trans hf.symm, hbits.trans (BitVec.eq_of_toNat_eq (Nat.lt_one_iff.1 hb).symm), fun _ => hmask⟩

/-- Settles O2, format by format. -/
theorem decodedBitsAreTheRowsBits : Obligations.DecodedBitsAreTheRowsBits := fun w _ hdecode =>
  have ⟨hbits, hrow⟩ := decode_eq_ok_iff.1 hdecode
  isRowOf_of_decodeFormat (w := w) hbits hrow

/-- Settles O3: each tag's word is computed. -/
theorem operationTagsDecodeAsListed : Obligations.OperationTagsDecodeAsListed := fun _ _ _ =>
  ⟨rfl, rfl, rfl, rfl, rfl, rfl, rfl, rfl, rfl, rfl, rfl, rfl, rfl, rfl, rfl, rfl⟩

end Sys2Proof
end

section
/-! SUPPORT. Statements over every instruction, from what an instruction can do (Laws/Exec.lean): which latches it
writes, what an alarm holds still, that the output trace grows at its end, that nodes are coupled by deliveries only. -/

namespace Sys2Proof.Machine

/-! ### What an effect leaves as it was -/

/-- What a handler of `C` leaves as it was: everything but the mode, the lamps and the output trace (R221). -/
theorem HandlerEffect.frame {s t : State} (h : HandlerEffect s t) :
    t = { s with c := { s.c with mode := t.c.mode, lampL := t.c.lampL, lampR := t.c.lampR, out := t.c.out } } := by
  obtain ⟨_, _, _, _, rfl, -, -⟩ := h
  rfl

/-- A handler of `C` in COLLISION leaves the lamps (R223). -/
theorem HandlerEffect.lamps_frozen {s t : State} (h : HandlerEffect s t) (hmode : s.c.mode = .collision) :
    t.c.lampL = s.c.lampL ∧ t.c.lampR = s.c.lampR := by
  obtain ⟨_, _, _, _, rfl, hlamps, -⟩ := h
  exact hlamps hmode

/-- A handler of `C` moves the mode by a GEAR message only, to COLLISION exactly if its first byte is 8 (R233). -/
theorem HandlerEffect.mode_moved {s t : State} (h : HandlerEffect s t) (hmoved : t.c.mode ≠ s.c.mode) :
    s.c.msg.len ≠ 0 ∧ s.c.msg.kind = .gear ∧
      ∃ v, readByte s.mem (slotBase .cmsg) = some v ∧ (t.c.mode = .collision ↔ v = 8) := by
  obtain ⟨_, _, _, _, rfl, -, hmode⟩ := h
  exact hmode hmoved

/-- A handler of `C` appends to the output trace (R44). -/
theorem HandlerEffect.out_appended {s t : State} (h : HandlerEffect s t) : ∃ events, t.c.out = s.c.out ++ events := by
  obtain ⟨_, _, _, events, rfl, -, -⟩ := h
  exact ⟨events, rfl⟩

/-- The count of free values is no register of a producer. -/
@[simp] theorem State.prod_setFree (s : State) (f : Nat) (n : Producer) :
    ({ s with free := f } : State).prod n = s.prod n := by cases n <;> rfl

/-- A reset of another node leaves the registers of `C` (R310). -/
theorem resetNode_c {n : Role} (h : n ≠ .c) (s : State) : (resetNode n s).c = s.c := by
  cases n with
  | p1 | p2 => rfl
  | c => exact absurd rfl h

/-! ### The latches -/

/-- Settles O56, family by family of what an instruction can do. -/
theorem latchesAreWrittenByTheirOperationsOnly : Obligations.LatchesAreWrittenByTheirOperationsOnly := by
  intro i s t hexec
  cases exec_effect hexec with
  | input n r f hi htx hrx ha =>
    refine ⟨absurd (State.setProd_gear s n r), absurd (State.setProd_ind s n r),
      absurd (congrArg ConsumerNode.tick (State.setProd_c s n r)),
      absurd (congrArg ConsumerNode.mode (State.setProd_c s n r)), fun k h => ?_⟩
    rw [State.prod_setFree, State.setProd_prod] at h
    by_cases hk : k = n
    case neg => exact absurd (by rw [if_neg hk]) h
    subst hk
    have hr : r.armed ≠ (s.prod k).armed := by rwa [if_pos rfl] at h
    rcases hi with ⟨m, rfl⟩ | ⟨m, rfl⟩ | ⟨v, rfl⟩ | rfl
    · exact absurd (ha (.inl ⟨m, rfl⟩)) hr
    · exact .inl ⟨m, rfl⟩
    · exact absurd (ha (.inr ⟨v, rfl⟩)) hr
    · exact .inr (.inl rfl)
  | gear g p hi =>
    refine ⟨fun _ => ?_, absurd rfl, absurd rfl, absurd rfl,
      fun k h => absurd (by cases k <;> rfl) h⟩
    rcases hi with rfl | rfl | rfl | rfl <;> simp
  | ind x p hi =>
    refine ⟨absurd rfl, fun _ => ?_, absurd rfl, absurd rfl,
      fun k h => absurd (by cases k <;> rfl) h⟩
    rcases hi with rfl | rfl | rfl | rfl | rfl <;> simp
  | transmit n id len p m =>
    exact ⟨absurd (by simp), absurd (by simp), absurd (by simp),
      absurd (by simp), fun k h => absurd (by simp) h⟩
  | poll u p hi hu =>
    rw [hu.frame]
    exact ⟨absurd rfl, absurd rfl, absurd rfl, absurd rfl,
      fun k h => absurd (by cases k <;> rfl) h⟩
  | handle u p hi hu hm =>
    refine ⟨absurd (by rw [hu.frame]; rfl), absurd (by rw [hu.frame]; rfl),
      absurd (by rw [hu.frame]; rfl), fun h => ?_, fun k h => absurd (by rw [hu.frame]; cases k <;> rfl) h⟩
    rcases hm h with rfl | rfl | rfl | ⟨v, rfl⟩ | rfl | ⟨v, rfl⟩ <;> simp
  | bus src t hi ht =>
    rw [deliver_frame ht]
    exact ⟨absurd rfl, absurd rfl, absurd rfl, absurd rfl,
      fun k h => absurd (by cases k <;> rfl) h⟩
  | timer hi =>
    exact ⟨absurd rfl, absurd rfl, absurd rfl, absurd rfl,
      fun k h => absurd (by cases k <;> rfl) h⟩
  | isr hi hf =>
    exact ⟨absurd rfl, absurd rfl, fun _ => .inl hi, absurd rfl,
      fun k h => absurd (by cases k <;> rfl) h⟩
  | reset n hi =>
    subst hi
    cases n with
    | p1 =>
      refine ⟨fun _ => by simp, absurd rfl, absurd rfl, absurd rfl, fun k h => ?_⟩
      cases k with
      | p1 => exact .inr (.inr rfl)
      | p2 => exact absurd rfl h
    | p2 =>
      refine ⟨absurd rfl, fun _ => by simp, absurd rfl, absurd rfl, fun k h => ?_⟩
      cases k with
      | p1 => exact absurd rfl h
      | p2 => exact .inr (.inr rfl)
    | c =>
      exact ⟨absurd rfl, absurd rfl, fun _ => .inr rfl, fun _ => by simp,
        fun k h => absurd (by cases k <;> rfl) h⟩

/-! ### The alarm and the output trace -/

/-- What an instruction other than a reset of `C` can do to the mode, the lamps and the output trace: nothing, or what
a handler does (R221 to R229). -/
theorem exec_display {i : Instr} {s t : State} (hexec : exec i s = .next t) (hreset : i ≠ .reset .c) :
    (t.c.mode = s.c.mode ∧ t.c.lampL = s.c.lampL ∧ t.c.lampR = s.c.lampR ∧ t.c.out = s.c.out) ∨
      ∃ u p, HandlerEffect s u ∧ t = u.setPhase .c p := by
  cases exec_effect hexec with
  | input n r f => left; cases n <;> exact ⟨rfl, rfl, rfl, rfl⟩
  | gear | ind | timer | isr => exact .inl ⟨rfl, rfl, rfl, rfl⟩
  | transmit n id len p m => left; simp
  | poll u p hi hu => left; rw [hu.frame]; exact ⟨rfl, rfl, rfl, rfl⟩
  | handle u p hi hu => exact .inr ⟨u, p, hu, rfl⟩
  | bus src t hi ht => left; rw [deliver_frame ht]; exact ⟨rfl, rfl, rfl, rfl⟩
  | reset n hi =>
    left
    rw [resetNode_c fun h => hreset (h ▸ hi)]
    exact ⟨rfl, rfl, rfl, rfl⟩

/-- Settles O50: a handler leaves the lamps in COLLISION, and nothing else writes them. -/
theorem lampsAreFrozenInCollision : Obligations.LampsAreFrozenInCollision := by
  intro i s t hexec hmode hreset
  rcases exec_display hexec hreset with ⟨-, hl, hr, -⟩ | ⟨u, p, hu, rfl⟩
  · exact ⟨hl, hr⟩
  · exact hu.lamps_frozen hmode

/-- Settles O51: only a handler moves the mode, by a GEAR message. -/
theorem onlyANonSentinelGearEndsTheAlarm : Obligations.OnlyANonSentinelGearEndsTheAlarm := by
  intro i s t hexec hcollision hnormal
  by_cases hreset : i = .reset .c
  · exact .inl hreset
  refine .inr ?_
  rcases exec_display hexec hreset with ⟨hmode, -⟩ | ⟨u, p, hu, rfl⟩
  · rw [hmode, hcollision] at hnormal; cases hnormal
  · have hmode : u.c.mode = .normal := hnormal
    obtain ⟨hlen, hkind, v, hv, hiff⟩ := hu.mode_moved (by rw [hmode, hcollision]; decide)
    refine ⟨hlen, hkind, v, hv, fun h8 => ?_⟩
    rw [hiff.2 h8] at hmode
    cases hmode

/-- Settles O52: a handler appends to the trace, and nothing else writes it. -/
theorem outputTraceIsAppendOnly : Obligations.OutputTraceIsAppendOnly := by
  intro i s t hexec hreset
  rcases exec_display hexec hreset with ⟨-, -, -, hout⟩ | ⟨u, p, hu, rfl⟩
  · exact ⟨[], by rw [hout, List.append_nil]⟩
  · exact hu.out_appended

/-! ### The nodes -/

/-- An address outside a node lies in none of its slots. -/
theorem inSlot_of_not_inNode {n : Role} {a : Nat} (h : inNode n a = false) {sl : Slot} (hsl : sl ∈ nodeSlots n) :
    inSlot sl a = false := by
  rw [inNode, List.any_eq_false] at h
  exact eq_false_of_ne_true (h sl hsl)

theorem SlotWritten.outside {m m' : Memory} {sl : Slot} {bytes : List Byte} (h : SlotWritten m m' sl bytes) {a : Nat}
    (ha : inSlot sl a = false) : readByte m' a = readByte m a := by
  rw [h, ha]; rfl

theorem txSlot_mem_nodeSlots (n : Role) : txSlot n ∈ nodeSlots n := by cases n <;> simp [txSlot, nodeSlots]

/-- What a poll does to the payload memory: nothing, or `MSG` takes at most eight bytes (R142). -/
theorem PollEffect.mem_cases {s t : State} (h : PollEffect s t) :
    t.mem = s.mem ∨ ∃ bytes, SlotWritten s.mem t.mem .cmsg bytes := by
  rcases h with rfl | rfl | ⟨bytes, hread, -, rfl⟩
  · exact .inl rfl
  · exact .inr ⟨[], slotWritten_clearSlot _ _⟩
  · obtain ⟨hn, hlen, -⟩ := memRead_ok hread
    exact .inr ⟨bytes, slotWritten_memWrite (by omega) _ _⟩

/-- The payload bytes of a reset node hold no value, the others what they held (R45, R310). -/
theorem readByte_resetNode (n : Role) (s : State) (a : Nat) :
    readByte (resetNode n s).mem a = if inNode n a then none else readByte s.mem a := by
  cases n with
  | p1 | p2 | c =>
    simp only [resetNode, readByte_clearSlot, inNode, nodeSlots, List.any_cons, List.any_nil, Bool.or_false,
      Bool.or_eq_true]
    split_ifs <;> simp_all

/-- The registers of the nodes other than one, and the model's script and turn, are what they were. -/
structure OthersKept (n : Role) (s t : State) : Prop where
  p1 : n ≠ .p1 → t.p1 = s.p1 ∧ t.gear = s.gear
  p2 : n ≠ .p2 → t.p2 = s.p2 ∧ t.ind = s.ind
  c : n ≠ .c → t.c = s.c
  bytes : ∀ a, inNode n a = false → readByte t.mem a = readByte s.mem a
  feed : t.feed = s.feed
  turn : t.turn = s.turn

/-- What acts on one node leaves the others, family by family (R301). -/
theorem exec_keeps_others {i : Instr} {n : Role} {s t : State} (hexec : exec i s = .next t)
    (hnode : instrNode i = some n) : OthersKept n s t := by
  cases exec_effect hexec with
  | input k r f hi =>
    have hk : n = k.role := by
      rcases hi with ⟨m, rfl⟩ | ⟨m, rfl⟩ | ⟨v, rfl⟩ | rfl <;> exact (Option.some.inj hnode).symm
    subst hk
    cases k with
    | p1 => exact ⟨absurd rfl, fun _ => ⟨rfl, rfl⟩, fun _ => rfl, fun _ _ => rfl, rfl, rfl⟩
    | p2 => exact ⟨fun _ => ⟨rfl, rfl⟩, absurd rfl, fun _ => rfl, fun _ _ => rfl, rfl, rfl⟩
  | gear g p hi =>
    have hn : n = .p1 := by rcases hi with rfl | rfl | rfl | rfl <;> exact (Option.some.inj hnode).symm
    exact ⟨fun h => absurd hn h, fun _ => ⟨rfl, rfl⟩, fun _ => rfl, fun _ _ => rfl, rfl, rfl⟩
  | ind x p hi =>
    have hn : n = .p2 := by rcases hi with rfl | rfl | rfl | rfl | rfl <;> exact (Option.some.inj hnode).symm
    exact ⟨fun _ => ⟨rfl, rfl⟩, fun h => absurd hn h, fun _ => rfl, fun _ _ => rfl, rfl, rfl⟩
  | transmit k id len p m bytes hi hm =>
    have hk : n = k := by
      rcases hi with ⟨_, _, _, rfl⟩ | ⟨rfl, rfl | rfl⟩ | ⟨rfl, rfl | rfl⟩ <;> exact (Option.some.inj hnode).symm
    subst hk
    have hbytes : ∀ a, inNode n a = false → readByte m a = readByte s.mem a := fun a ha =>
      hm.outside (inSlot_of_not_inNode ha (txSlot_mem_nodeSlots n))
    cases n with
    | p1 => exact ⟨absurd rfl, fun _ => ⟨rfl, rfl⟩, fun _ => rfl, hbytes, rfl, rfl⟩
    | p2 => exact ⟨fun _ => ⟨rfl, rfl⟩, absurd rfl, fun _ => rfl, hbytes, rfl, rfl⟩
    | c => exact ⟨fun _ => ⟨rfl, rfl⟩, fun _ => ⟨rfl, rfl⟩, absurd rfl, hbytes, rfl, rfl⟩
  | poll u p hi hu =>
    have hn : n = .c := by
      rcases hi with rfl | rfl | rfl | rfl | rfl | ⟨_, rfl⟩ | rfl <;> exact (Option.some.inj hnode).symm
    subst hn
    have hbytes : ∀ a, inNode .c a = false → readByte u.mem a = readByte s.mem a := fun a ha => by
      rcases hu.mem_cases with hmem | ⟨bytes, hwritten⟩
      · rw [hmem]
      · exact hwritten.outside (inSlot_of_not_inNode ha (by simp [nodeSlots]))
    rw [hu.frame]
    exact ⟨fun _ => ⟨rfl, rfl⟩, fun _ => ⟨rfl, rfl⟩, absurd rfl, hbytes, rfl, rfl⟩
  | handle u p hi hu =>
    have hn : n = .c := by
      rcases hi with (rfl | rfl | rfl | ⟨_, rfl⟩ | rfl | ⟨_, rfl⟩) | (rfl | rfl | rfl | rfl | ⟨_, rfl⟩) <;>
        exact (Option.some.inj hnode).symm
    rw [hu.frame]
    exact ⟨fun _ => ⟨rfl, rfl⟩, fun _ => ⟨rfl, rfl⟩, fun h => absurd hn h, fun _ _ => rfl, rfl, rfl⟩
  | bus src t hi => subst hi; cases hnode
  | timer hi =>
    subst hi
    exact ⟨fun _ => ⟨rfl, rfl⟩, fun _ => ⟨rfl, rfl⟩, fun h => absurd (Option.some.inj hnode).symm h, fun _ _ => rfl,
      rfl, rfl⟩
  | isr hi =>
    subst hi
    exact ⟨fun _ => ⟨rfl, rfl⟩, fun _ => ⟨rfl, rfl⟩, fun h => absurd (Option.some.inj hnode).symm h, fun _ _ => rfl,
      rfl, rfl⟩
  | reset k hi =>
    subst hi
    cases hnode
    have hbytes : ∀ a, inNode n a = false → readByte (resetNode n s).mem a = readByte s.mem a := fun a ha => by
      rw [readByte_resetNode, ha]; rfl
    cases n with
    | p1 => exact ⟨absurd rfl, fun _ => ⟨rfl, rfl⟩, fun _ => rfl, hbytes, rfl, rfl⟩
    | p2 => exact ⟨fun _ => ⟨rfl, rfl⟩, absurd rfl, fun _ => rfl, hbytes, rfl, rfl⟩
    | c => exact ⟨fun _ => ⟨rfl, rfl⟩, fun _ => ⟨rfl, rfl⟩, absurd rfl, hbytes, rfl, rfl⟩

/-- Settles O57, field by field. -/
theorem nodesAreCoupledByDeliveryOnly : Obligations.NodesAreCoupledByDeliveryOnly := fun _ _ _ _ hexec hnode =>
  have h := exec_keeps_others hexec hnode
  ⟨h.p1, h.p2, h.c, h.bytes, h.feed, h.turn⟩

/-- No instruction writes the script or the turn (log 3). -/
theorem exec_feed {i : Instr} {s t : State} (hexec : exec i s = .next t) : t.feed = s.feed := by
  cases hnode : instrNode i with
  | some n => exact (exec_keeps_others hexec hnode).feed
  | none =>
    cases i with
    | reserved => cases hexec
    | busDeliver src => rw [deliver_frame hexec]
    | _ => cases hnode

end Sys2Proof.Machine
end

section
/-! SUPPORT. Keys (42_keys.md R181 to R185): a level read, the released row, and the events of successive reads. -/

namespace Sys2Proof.Machine

/-- Settles O14. -/
theorem keyLevelReportsTheMaskVerbatim : Obligations.KeyLevelReportsTheMaskVerbatim := fun _ _ _ => rfl

/-- Settles O16: a STATE_CHANGE read of `ALL_RELEASED`, less the phase. -/
theorem allReleasedArmRearms : Obligations.AllReleasedArmRearms := by
  intro n s
  refine ⟨Config.freeMask s.free, s.free + 1, ?_⟩
  have hedge : edge (s.prod n).armed Config.allReleased = (true, false) := if_pos rfl
  show Host.Outcome.next (edgeRead n Config.allReleased s) = _
  simp only [edgeRead, hedge]
  cases n <;> rfl

/-- A STATE_CHANGE read, by what later reads see of it: an event exactly for a pressed mask on an armed latch, with
that mask, and a latch that is armed exactly by the released mask (R182, R183). -/
theorem exec_keyEdge (n : Producer) (m : KeyMask) (s : State) :
    ∃ t, exec (.keyEdge n m) s = .next t ∧
      ((t.prod n).kev.valid = true ↔ m ≠ Config.allReleased ∧ (s.prod n).armed = true) ∧
      ((t.prod n).kev.valid = true → (t.prod n).kev.mask = m) ∧
      ((t.prod n).armed = true ↔ m = Config.allReleased) := by
  obtain ⟨kev, f, hexec, hreleased, hevent, hheld⟩ := keyEdgeFollowsItsTruthTable n m s
  refine ⟨_, hexec, ?_⟩
  simp only [State.prod_setFree, State.setProd_prod, if_true, decide_eq_true_iff]
  by_cases hm : m = Config.allReleased
  · simp [hreleased hm, hm]
  · cases ha : (s.prod n).armed with
    | false => simp [hheld hm ha, hm]
    | true => simp [hevent hm ha, hm]

/-- Settles O17, by induction on the reads: after the first read the latch is armed exactly if that read was
`ALL_RELEASED`. -/
theorem oneKeyEventPerPressedRun : Obligations.OneKeyEventPerPressedRun := by
  intro n ms
  induction ms with
  | nil => exact fun s => ⟨rfl, fun j m kev hm => by simp at hm⟩
  | cons m₀ ms ih =>
    intro s
    obtain ⟨t, hexec, hvalid, hmask, harmed⟩ := exec_keyEdge n m₀ s
    obtain ⟨hlength, hevents⟩ := ih t
    have hcons : edgeEvents n (m₀ :: ms) s = (t.prod n).kev :: edgeEvents n ms t := by
      rw [edgeEvents, hexec]
    refine ⟨by rw [hcons, List.length_cons, List.length_cons, hlength], fun j m kev hm hkev => ?_⟩
    rw [hcons] at hkev
    cases j with
    | zero =>
      cases hm
      cases hkev
      exact ⟨hvalid, hmask⟩
    | succ j =>
      obtain ⟨hiff, hcarries⟩ := hevents j m kev hm hkev
      refine ⟨hiff.trans (and_congr_right fun _ => ?_), hcarries⟩
      cases j with
      | zero => simpa using harmed
      | succ j => simp

end Sys2Proof.Machine
end

section
/-! SUPPORT. The producers (43_producers.md R191 to R194): the sample, the gear selector, the rows of the key maps. -/

namespace Sys2Proof.Machine

/-- `SAMPLE` latches a value within the node's maximum, moves the phase, and refuses a value above it (R191). -/
theorem exec_sample (n : Producer) (v : NumValue) (s : State) :
    exec (.sample n v) s =
      if v.toNat ≤ valMax n then
        .next (s.setProd n { s.prod n with
          num := v
          phase := BitVec.ofNat 3 (((s.prod n).phase.toNat + 1) % 5) })
      else .refused .valueOutOfRange := by
  show execSample n v s = _
  unfold execSample
  by_cases hv : v.toNat ≤ valMax n
  · rw [if_pos hv, if_neg (Nat.not_lt.2 hv), ← nextPhase_producer]
    cases n <;> rfl
  · rw [if_neg hv, if_pos (Nat.lt_of_not_le hv)]

/-- Settles O18: the two maxima are those of the nodes. -/
theorem sampleLatchesOrRefuses : Obligations.SampleLatchesOrRefuses := by
  intro n v s
  cases n with
  | p1 => exact exec_sample .p1 v s
  | p2 => exact exec_sample .p2 v s

/-! ### The gear selector -/

/-- There is a key event of a function of `P1` exactly if `KEV` is an event with that function's mask (R104). -/
theorem gearKeyEvent_eq_some_iff {s : State} {k : GearKey} :
    gearKeyEvent s = some k ↔ s.p1.kev = ⟨true, gearMask k⟩ := by
  cases hkev : s.p1.kev with
  | mk valid mask => cases valid <;> simp [gearKeyEvent, hkev, gearKeyOf_eq_some_iff]

/-- There is a key event that selects a state of `P2` exactly if `KEV` is an event with that key's mask (R105). -/
theorem indKeyEvent_eq_some_iff {s : State} {x : Ind} :
    indKeyEvent s = some x ↔ s.p2.kev = ⟨true, indMask x⟩ := by
  cases hkev : s.p2.kev with
  | mk valid mask => cases valid <;> simp [indKeyEvent, hkev, indKeyOf_eq_some_iff]

/-- The gear that `GEAR.STEP` leaves: the key function's of the event, or the old one (R192). -/
def gearLeft (s : State) : Gear :=
  match gearKeyEvent s with
  | some k => gearAfter k s.gear
  | none => s.gear

theorem gearLeft_of_key {s : State} {k : GearKey} (h : s.p1.kev = ⟨true, gearMask k⟩) :
    gearLeft s = gearAfter k s.gear := by rw [gearLeft, gearKeyEvent_eq_some_iff.2 h]

/-- Without an event of a key of `P1` the gear is left (R192). -/
theorem gearLeft_of_no_key {s : State} (h : ∀ k, s.p1.kev ≠ ⟨true, gearMask k⟩) : gearLeft s = s.gear := by
  cases hkey : gearKeyEvent s with
  | none => rw [gearLeft, hkey]
  | some k => exact absurd (gearKeyEvent_eq_some_iff.1 hkey) (h k)

/-- `GEAR.STEP` leaves the gear by its key event, and moves the phase (R192). -/
theorem exec_gearStep (s : State) :
    exec .gearStep s = .next
      { s with gear := gearLeft s, p1 := { s.p1 with phase := BitVec.ofNat 3 ((s.p1.phase.toNat + 1) % 5) } } := by
  show execGearStep s = _
  unfold execGearStep gearLeft
  cases gearKeyEvent s <;> rfl

/-- The column DECREMENT, by the gear and not its number (R192, R193). -/
theorem gearAfter_decrement (g : Gear) :
    gearAfter .decrement g = if g = 8 then 1 else if 1 < g.toNat then g - 1 else g := by
  have hsentinel : g.toNat = Config.sentinel ↔ g = 8 := BitVec.toNat_inj (y := 8)
  simp only [gearAfter, hsentinel]

/-- A gear below the sentinel becomes the sentinel by the COLLISION function only (R194). -/
theorem gearAfter_eq_sentinel {k : GearKey} {g : Gear} (hg : g.toNat < 8) (h : (gearAfter k g).toNat = 8) :
    k = .collision := by
  cases k with
  | increment => revert g; decide
  | decrement => revert g; decide
  | collision => rfl

/-- Every key function keeps the gear in 0 to 8 (R43). -/
theorem gearAfter_le (k : GearKey) {g : Gear} (hg : g.toNat ≤ 8) : (gearAfter k g).toNat ≤ 8 := by
  cases k with
  | increment => revert g; decide
  | decrement => revert g; decide
  | collision => exact Nat.le_refl 8

/-- `GEAR.STEP` makes the sentinel of a gear below it by the COLLISION key's event only (R194). -/
theorem gearLeft_sets_sentinel {s : State} (hbelow : s.gear.toNat < 8) (hset : (gearLeft s).toNat = 8) :
    s.p1.kev = ⟨true, Config.kCol⟩ := by
  cases hkey : gearKeyEvent s with
  | none => rw [gearLeft, hkey] at hset; exact absurd hset hbelow.ne
  | some k =>
    rw [gearLeft, hkey] at hset
    obtain rfl := gearAfter_eq_sentinel hbelow hset
    exact gearKeyEvent_eq_some_iff.1 hkey

/-- Settles O19: the gear left is the event's key function's, by the key map. -/
theorem gearStepAppliesTheKeyEvent : Obligations.GearStepAppliesTheKeyEvent := by
  intro s
  refine ⟨gearLeft s, exec_gearStep s, fun hnone => ?noEvent, fun hkey => ?increment, fun hkey => ?decrement,
    fun hkey => ?collision, fun hinc hdec hcol => ?unmatched⟩
  case noEvent => exact gearLeft_of_no_key fun k hk => by simp [hk] at hnone
  case increment => exact gearLeft_of_key (k := .increment) hkey
  case decrement => rw [gearLeft_of_key (k := .decrement) hkey, gearAfter_decrement]
  case collision => exact gearLeft_of_key (k := .collision) hkey
  case unmatched =>
    refine gearLeft_of_no_key fun k hk => ?_
    rw [hk] at hinc hdec hcol
    cases k with
    | increment => exact hinc rfl
    | decrement => exact hdec rfl
    | collision => exact hcol rfl

/-! ### The rows of the key maps -/

/-- A row of the key map of `P1` applies its key function to the gear for its own event only (log 1). -/
theorem gearKeyArm_eq (k : GearKey) (s : State) :
    gearKeyArm k s = { s with gear := if s.p1.kev = ⟨true, gearMask k⟩ then gearAfter k s.gear else s.gear } := by
  unfold gearKeyArm
  by_cases hkey : s.p1.kev = ⟨true, gearMask k⟩
  · rw [if_pos (gearKeyEvent_eq_some_iff.2 hkey), if_pos hkey]; rfl
  · rw [if_neg (mt gearKeyEvent_eq_some_iff.1 hkey), if_neg hkey]

/-- A row of the key map of `P2` selects its state for its own event only (log 1). -/
theorem indKeyArm_eq (x : Ind) (s : State) :
    indKeyArm x s = { s with ind := if s.p2.kev = ⟨true, indMask x⟩ then x else s.ind } := by
  unfold indKeyArm
  by_cases hkey : s.p2.kev = ⟨true, indMask x⟩
  · rw [if_pos (indKeyEvent_eq_some_iff.2 hkey), if_pos hkey]; rfl
  · rw [if_neg (mt indKeyEvent_eq_some_iff.1 hkey), if_neg hkey]

/-- Settles O20: each row is the arm of its own key. -/
theorem keyRowsActOnTheirOwnMask : Obligations.KeyRowsActOnTheirOwnMask := by
  intro s
  refine ⟨?increment, ?decrement, congrArg _ (gearKeyArm_eq .collision s), congrArg _ (indKeyArm_eq .off s),
    congrArg _ (indKeyArm_eq .left s), congrArg _ (indKeyArm_eq .right s), congrArg _ (indKeyArm_eq .hazard s)⟩
  case increment =>
    refine congrArg _ ((gearKeyArm_eq .increment s).trans ?_)
    rw [ite_and]
    rfl
  case decrement =>
    refine congrArg _ ((gearKeyArm_eq .decrement s).trans ?_)
    rw [gearAfter_decrement]
    rfl

/-- A row of the key map of `P1` that makes the sentinel of a gear below it is COLLISION's, on its own event. -/
theorem gearKeyArm_sets_sentinel {k : GearKey} {s : State} (hbelow : s.gear.toNat < 8)
    (hset : (gearKeyArm k s).gear.toNat = 8) : k = .collision ∧ s.p1.kev = ⟨true, Config.kCol⟩ := by
  rw [gearKeyArm_eq] at hset
  dsimp only at hset
  split at hset
  · rename_i hkey
    obtain rfl := gearAfter_eq_sentinel hbelow hset
    exact ⟨rfl, hkey⟩
  · omega

/-- Settles O21: of the instructions that write the gear, `GEAR.STEP` and the rows by their key function. -/
theorem onlyTheCollisionKeySetsTheSentinel : Obligations.OnlyTheCollisionKeySetsTheSentinel := by
  intro i s t hexec hbelow hset
  have hmoved : t.gear ≠ s.gear := fun h => by rw [h] at hset; omega
  have hrow : ∀ k, Host.Outcome.next (φ := Fault) (ρ := Refusal) (gearKeyArm k s) = .next t →
      k = .collision ∧ s.p1.kev = ⟨true, Config.kCol⟩ := fun k h =>
    gearKeyArm_sets_sentinel hbelow (Host.Outcome.next.inj h ▸ hset)
  rcases (latchesAreWrittenByTheirOperationsOnly i s t hexec).1 hmoved with rfl | rfl | rfl | rfl | rfl
  · rw [exec_gearStep] at hexec
    cases hexec
    exact ⟨gearLeft_sets_sentinel hbelow hset, .inl rfl⟩
  · cases (hrow .increment hexec).1
  · cases (hrow .decrement hexec).1
  · exact ⟨(hrow .collision hexec).2, .inr rfl⟩
  · cases hexec
    cases hset

end Sys2Proof.Machine
end

section
/-! SUPPORT. The numeric encoding (41_codec.md R164 to R168): its digits, and the value read back from them. -/

namespace Sys2Proof.Machine

/-- A digit's byte is read back as the digit (R165, R168). -/
theorem digitOf_digitByte {d : Nat} (hd : d < 10) : digitOf (digitByte d) = some d := by
  have hbyte : (digitByte d).toNat = 48 + d := by
    rw [digitByte, BitVec.toNat_ofNat]
    omega
  rw [digitOf, hbyte, if_pos (by omega), Nat.add_sub_cancel_left]

/-- A digit more at the right: ten times the value of the bytes to its left, and the digit (R168). -/
theorem decNumFrom_append_digit {acc v d : Nat} {bytes : List Byte} (hbytes : decNumFrom acc bytes = some v)
    (hd : d < 10) : decNumFrom acc (bytes ++ [digitByte d]) = some (v * 10 + d) := by
  induction bytes generalizing acc with
  | nil =>
    cases hbytes
    simp [decNumFrom, digitOf_digitByte hd]
  | cons b bs ih =>
    rw [List.cons_append, decNumFrom]
    rw [decNumFrom] at hbytes
    cases hb : digitOf b with
    | none => rw [hb] at hbytes; cases hbytes
    | some x => rw [hb] at hbytes; exact ih hbytes

/-- The digits of a number are read back as the number, whatever bound the recursion has (R165, R168). -/
theorem decNumFrom_digitsWithin {fuel v : Nat} (hv : v ≤ fuel) : decNumFrom 0 (digitsWithin fuel v) = some v := by
  induction fuel generalizing v with
  | zero =>
    obtain rfl := Nat.le_zero.1 hv
    rfl
  | succ fuel ih =>
    rw [digitsWithin]
    by_cases hdigit : v < 10
    · rw [if_pos hdigit]
      exact (decNumFrom_append_digit (bytes := []) rfl hdigit).trans (by simp)
    · rw [if_neg hdigit, decNumFrom_append_digit (ih (by omega)) (Nat.mod_lt _ (by decide)), Nat.div_add_mod']

theorem decNum_of_ne_nil {bytes : List Byte} (h : bytes ≠ []) : decNum bytes = decNumFrom 0 bytes := by
  cases bytes with
  | nil => exact absurd rfl h
  | cons b bs => rfl

/-- `DEC_NUM` inverts `ENC_NUM`: zero by its own form, a positive number by its digits (R168). -/
theorem decNum_encNum (v : Nat) : decNum (encNum v) = some v := by
  by_cases hzero : v = 0
  · subst hzero; rfl
  · rw [decNum_of_ne_nil (encNum_ne_nil v), encNum_pos hzero, decNumFrom_digitsWithin (Nat.le_refl v)]

/-- Settles O28: a function with an inverse is injective. -/
theorem decNumInvertsEncNum : Obligations.DecNumInvertsEncNum := by
  refine ⟨decNum_encNum, fun v w h => ?_⟩
  have hv := decNum_encNum v
  rw [h, decNum_encNum] at hv
  exact (Option.some.inj hv).symm

/-- A number from `10 ^ k` up to below `10 ^ (k + 1)` has `k + 1` digits, most significant first (R165, log 22). -/
theorem digitsWithin_decimal {fuel v k : Nat} (hv : v ≤ fuel) (hlow : 10 ^ k ≤ v) (hhigh : v < 10 ^ (k + 1)) :
    (digitsWithin fuel v).length = k + 1 ∧
      ∀ j, j ≤ k → (digitsWithin fuel v)[j]? = some (digitByte (v / 10 ^ (k - j) % 10)) := by
  induction fuel generalizing v k with
  | zero =>
    have hpos : 0 < 10 ^ k := Nat.pos_of_neZero _
    omega
  | succ fuel ih =>
    rw [digitsWithin]
    cases k with
    | zero =>
      rw [Nat.zero_add, pow_one] at hhigh
      rw [if_pos hhigh]
      refine ⟨rfl, fun j hj => ?_⟩
      obtain rfl := Nat.le_zero.1 hj
      simp [Nat.mod_eq_of_lt hhigh]
    | succ k =>
      have hten : ¬ v < 10 := fun h => by
        have hpow : 10 ^ 1 ≤ 10 ^ (k + 1) := Nat.pow_le_pow_right (by decide) (by omega)
        omega
      rw [if_neg hten]
      rw [pow_succ] at hlow hhigh
      obtain ⟨hlength, hdigits⟩ := ih (v := v / 10) (k := k) (by omega) (by omega) (by omega)
      refine ⟨by rw [List.length_append, hlength]; rfl, fun j hj => ?_⟩
      by_cases hlast : j = k + 1
      · subst hlast
        rw [List.getElem?_append_right (by omega), hlength]
        simp
      · have hj' : j ≤ k := by omega
        have hshift : v / 10 / 10 ^ (k - j) = v / 10 ^ (k + 1 - j) := by
          rw [Nat.div_div_eq_div_mul, ← pow_succ', Nat.sub_add_comm hj']
        rw [List.getElem?_append_left (by omega), hdigits j hj', hshift]

/-- Settles O27: the least power of ten above a positive number is one above the greatest that is not. -/
theorem encNumGivesTheDecimalDigits : Obligations.EncNumGivesTheDecimalDigits := by
  refine ⟨encNum_zero, fun v k hpos hhigh hleast => ?_⟩
  cases k with
  | zero => rw [pow_zero] at hhigh; omega
  | succ k =>
    obtain ⟨hlength, hdigits⟩ := digitsWithin_decimal (Nat.le_refl v) (hleast k (Nat.lt_succ_self k)) hhigh
    rw [encNum_pos hpos.ne']
    exact ⟨hlength, fun j hj => hdigits j (Nat.le_of_lt_succ hj)⟩

end Sys2Proof.Machine
end

section
/-! SUPPORT. Transport (40_transport.md R141 to R149): the staging, the delivery, the poll and its rows, and what
becomes of a frame over several steps. -/

namespace Sys2Proof.Machine

/-! ### Staging -/

/-- What a slot was written with is read back whole (R62). -/
theorem SlotWritten.memRead_all {m m' : Memory} {sl : Slot} {bytes : List Byte} (h : SlotWritten m m' sl bytes)
    (hlen : bytes.length ≤ 8) : memRead sl bytes.length m' = .ok bytes := by
  simpa using h.memRead_take hlen (Nat.le_refl _)

/-- What `CAN.TX` answers, if it answers a next state (R141). -/
theorem exec_canTx_eq_next {n : Role} {k : Kind} {len : Len} {p : List Byte} {s t : State} :
    exec (.canTx n k len p) s = .next t ↔
      ∃ id, idOf k = some id ∧ len.toNat ≠ 0 ∧ len.toNat ≤ 8 ∧ p.length = len.toNat ∧
        t = (s.setTx n ⟨id, len, true⟩).setMem (memWrite (txSlot n) p s.mem) := by
  have hlen : BitVec.ofNat 4 len.toNat = len := by simp
  have h := transmit_eq_next (n := n) (t := (k, p, len.toNat)) (s := s) (u := t)
  simp only [hlen] at h
  exact h

/-- `CAN.TX` refuses what is no transmission of R141. -/
theorem transmit_refused {n : Role} {x : Transmission} {s : State}
    (h : x.1 = .unknown ∨ x.2.2 = 0 ∨ 8 < x.2.2 ∨ x.2.1.length ≠ x.2.2) :
    transmit n x s = .refused .badTransmit := by
  unfold transmit
  rcases h with hkind | hrest
  · rw [hkind]; rfl
  · cases idOf x.1 with
    | none => rfl
    | some id => exact if_pos hrest

/-- Settles O30. -/
theorem canTxStagesOrRefuses : Obligations.CanTxStagesOrRefuses := by
  intro n k len payload s
  refine ⟨fun id hid hpos hmax hsize => ?staged, fun h => ?refused⟩
  case staged =>
    exact ⟨_, slotWritten_memWrite (by omega) _ _,
      exec_canTx_eq_next.2 ⟨id, hid, by omega, hmax, hsize, rfl⟩⟩
  case refused =>
    refine transmit_refused (h.imp_right (Or.imp_left fun hzero => ?_))
    rw [hzero]; rfl

/-- A frame staged over a staged frame leaves nothing of it (R144). -/
theorem State.setTx_setMem_setTx_setMem (s : State) (n : Role) (x x' : TxSlot) (m m' : Memory) :
    (((s.setTx n x).setMem m).setTx n x').setMem m' = (s.setTx n x').setMem m' := by cases n <;> rfl

/-- Settles O31: the second staging overwrites the slot's registers and bytes, and reads neither. -/
theorem secondStagingLeavesNothingOfTheFirst : Obligations.SecondStagingLeavesNothingOfTheFirst := by
  intro n k k' len len' p p' s t hfirst
  obtain ⟨id, -, -, hmax, hsize, rfl⟩ := exec_canTx_eq_next.1 hfirst
  show transmit n _ _ = transmit n _ s
  unfold transmit
  rw [State.setMem_mem, memWrite_memWrite _ _ _ _ (by omega)]
  simp only [State.setTx_setMem_setTx_setMem]

/-! ### Delivery -/

theorem mem_receivers {r src : Role} : r ∈ receivers src ↔ r ≠ src := by
  cases r <;> cases src <;> decide

theorem rxSlot_injective {r r' : Role} (h : rxSlot r = rxSlot r') : r = r' := by
  revert h; cases r <;> cases r' <;> decide

theorem txSlot_ne_rxSlot (n r : Role) : txSlot n ≠ rxSlot r := by cases n <;> cases r <;> decide

section PutFrames

variable (id : Ident) (len : Len) (bytes : List Byte)

/-- The receive slots after a frame was put into those of some nodes (R143). -/
theorem foldl_putFrame_rx (rs : List Role) (s : State) (r : Role) :
    (rs.foldl (putFrame id len bytes) s).rx r = if r ∈ rs then ⟨id, len, true⟩ else s.rx r := by
  induction rs generalizing s with
  | nil => simp
  | cons r₀ rs ih =>
    rw [List.foldl_cons, ih]
    by_cases hr : r ∈ rs
    · simp [hr]
    · by_cases h0 : r = r₀ <;> simp [hr, h0, putFrame]

theorem foldl_putFrame_tx (rs : List Role) (s : State) (r : Role) :
    (rs.foldl (putFrame id len bytes) s).tx r = s.tx r := by
  induction rs generalizing s with
  | nil => rfl
  | cons r₀ rs ih => rw [List.foldl_cons, ih]; simp [putFrame]

variable {bytes} (hmax : bytes.length ≤ 8)
include hmax

/-- Addresses outside the receive slots of those nodes read as before (R143). -/
theorem readByte_foldl_putFrame_outside (rs : List Role) (s : State) {a : Nat}
    (ha : ∀ r ∈ rs, inSlot (rxSlot r) a = false) :
    readByte (rs.foldl (putFrame id len bytes) s).mem a = readByte s.mem a := by
  induction rs generalizing s with
  | nil => rfl
  | cons r₀ rs ih =>
    rw [List.foldl_cons, ih _ fun r hr => ha r (List.mem_cons_of_mem _ hr)]
    exact (slotWritten_memWrite hmax _ _).outside (ha r₀ List.mem_cons_self)

/-- The receive slots of those nodes hold the frame's bytes and no others (R143). -/
theorem readByte_foldl_putFrame_inside (rs : List Role) (s : State) {r : Role} (hr : r ∈ rs) {j : Nat} (hj : j < 8) :
    readByte (rs.foldl (putFrame id len bytes) s).mem (slotBase (rxSlot r) + j) = bytes[j]? := by
  induction rs generalizing s with
  | nil => cases hr
  | cons r₀ rs ih =>
    rw [List.foldl_cons]
    by_cases hrs : r ∈ rs
    · exact ih _ hrs
    · obtain rfl : r = r₀ := (List.mem_cons.1 hr).resolve_right hrs
      rw [readByte_foldl_putFrame_outside id len hmax rs]
      · exact (slotWritten_memWrite hmax _ _).inside hj
      · intro r' hr'
        refine eq_false_of_ne_true fun hin => hrs ?_
        rwa [rxSlot_injective ((inSlot_add _ _ hj).1 hin)]

end PutFrames

/-- Everything a delivery does to the slots (R143): the receivers hold the sender's frame whole, the request is done,
and every other slot is what it was. -/
structure Delivered (src : Role) (bytes : List Byte) (s t : State) : Prop where
  received : ∀ r, r ≠ src → t.rx r = ⟨(s.tx src).id, (s.tx src).len, true⟩
  senderRx : t.rx src = s.rx src
  senderTx : t.tx src = { s.tx src with req := false }
  otherTx : ∀ r, r ≠ src → t.tx r = s.tx r
  receivedBytes : ∀ r, r ≠ src → ∀ j, j < 8 → readByte t.mem (slotBase (rxSlot r) + j) = bytes[j]?
  otherBytes : ∀ a, (∀ r, r ≠ src → inSlot (rxSlot r) a = false) → readByte t.mem a = readByte s.mem a

/-- What a delivery answers, by what it does to the slots. -/
theorem deliver_delivered {src : Role} {s t : State} (h : deliver src s = .next t) :
    ∃ bytes, (s.tx src).req = true ∧ memRead (txSlot src) (s.tx src).len.toNat s.mem = .ok bytes ∧
      Delivered src bytes s t := by
  obtain ⟨hreq, bytes, hread, rfl⟩ := deliver_eq_next.1 h
  obtain ⟨hmax, hlength, -⟩ := memRead_ok hread
  refine ⟨bytes, hreq, hread, ?_, ?_, ?_, ?_, ?_, ?_⟩
  · intro r hr
    rw [State.setTx_rx, foldl_putFrame_rx, if_pos (mem_receivers.2 hr)]
  · rw [State.setTx_rx, foldl_putFrame_rx, if_neg fun hmem => mem_receivers.1 hmem rfl]
  · rw [State.setTx_tx, if_pos rfl]
  · intro r hr
    rw [State.setTx_tx, if_neg hr, foldl_putFrame_tx]
  · intro r hr j hj
    rw [State.setTx_mem]
    exact readByte_foldl_putFrame_inside _ _ (by omega) _ _ (mem_receivers.2 hr) hj
  · intro a ha
    rw [State.setTx_mem]
    exact readByte_foldl_putFrame_outside _ _ (by omega) _ _ fun r hr => ha r (mem_receivers.1 hr)

/-- A slot that no delivery of a sender writes: any but the receive slots of the other nodes. -/
theorem Delivered.slot_kept {src : Role} {bytes : List Byte} {s t : State} (h : Delivered src bytes s t) {sl : Slot}
    (hsl : ∀ r, r ≠ src → sl ≠ rxSlot r) {j : Nat} (hj : j < 8) :
    readByte t.mem (slotBase sl + j) = readByte s.mem (slotBase sl + j) :=
  h.otherBytes _ fun r hr => eq_false_of_ne_true fun hin => hsl r hr ((inSlot_add _ _ hj).1 hin)

/-- A delivery with a pending request and the staged bytes there is enabled and answers (R143). -/
theorem deliver_answers {src : Role} {s : State} {bytes : List Byte} (hreq : (s.tx src).req = true)
    (hread : memRead (txSlot src) (s.tx src).len.toNat s.mem = .ok bytes) :
    ∃ t, deliver src s = .next t ∧ Delivered src bytes s t := by
  have hnext := deliver_eq_next.2 ⟨hreq, bytes, hread, rfl⟩
  obtain ⟨bytes', -, hread', hdelivered⟩ := deliver_delivered hnext
  rw [hread] at hread'
  cases hread'
  exact ⟨_, hnext, hdelivered⟩

theorem deliver_refused {src : Role} {s : State} (h : (s.tx src).req = false) :
    deliver src s = .refused .notEnabled := by simp [deliver, h]

/-- Settles O32. -/
theorem busDeliverCopiesTheWholeFrame : Obligations.BusDeliverCopiesTheWholeFrame := by
  intro src s
  refine ⟨deliver_refused, fun bytes hreq hread => ?_⟩
  obtain ⟨t, hnext, h⟩ := deliver_answers hreq hread
  exact ⟨t, hnext, h.received, h.senderRx, h.senderTx, h.otherTx, h.receivedBytes, h.otherBytes, deliver_frame hnext⟩

/-! ### The poll and its rows -/

/-- The state after a poll takes the unread frame with its bytes, less the phase (R142). -/
def frameTaken (bytes : List Byte) (s : State) : State :=
  { s with
      c := { s.c with msg := ⟨kindOf s.c.rx.id, s.c.rx.len⟩, rx := ⟨s.c.rx.id, s.c.rx.len, false⟩ }
      mem := memWrite .cmsg bytes s.mem }

theorem takeFrame_of_read {s : State} {bytes : List Byte} (h : memRead .crx s.c.rx.len.toNat s.mem = .ok bytes) :
    takeFrame s = .next (frameTaken bytes s) := by
  rw [takeFrame, h]; rfl

/-- The bytes of a frame taken stand in `MSG` and no others do (R142). -/
theorem frameTaken_written {s : State} {bytes : List Byte} (h : memRead .crx s.c.rx.len.toNat s.mem = .ok bytes) :
    SlotWritten s.mem (memWrite .cmsg bytes s.mem) .cmsg bytes := by
  obtain ⟨hmax, hlength, -⟩ := memRead_ok h
  exact slotWritten_memWrite (by omega) _ _

/-- Settles O33. -/
theorem canRxTakesTheFrameOrReportsNone : Obligations.CanRxTakesTheFrameOrReportsNone := by
  intro s
  refine ⟨fun bytes hfull hread => ⟨_, frameTaken_written hread, ?taken⟩, fun hempty =>
    ⟨_, Config.freeKind s.free, s.free + 1, slotWritten_clearSlot _ _, ?none⟩⟩
  case taken =>
    show execCanRx s = _
    rw [execCanRx, if_pos hfull, takeFrame_of_read hread]
    rfl
  case none =>
    show execCanRx s = _
    rw [execCanRx, hempty]
    rfl

/-- A row of the kind map takes the unread frame of its own kind (log 1). -/
theorem frameArm_of_kind {k : Kind} {s : State} (hfull : s.c.rx.full = true) (hkind : kindOf s.c.rx.id = k) :
    frameArm k s = takeFrame s := if_pos ⟨hfull, hkind⟩

/-- A row of the kind map does nothing without an unread frame of its kind (log 1). -/
theorem frameArm_of_not {k : Kind} {s : State} (h : s.c.rx.full = false ∨ kindOf s.c.rx.id ≠ k) :
    frameArm k s = .next s :=
  if_neg fun hboth => h.elim (fun hempty => by simp [hempty] at hboth) fun hkind => hkind hboth.2

/-- An identifier that is not a kind's is of another kind (R161). -/
theorem kindOf_ne_of_ne {k : Kind} {id id' : Ident} (hk : idOf k = some id) (h : id' ≠ id) : kindOf id' ≠ k := by
  rintro rfl
  have hid' := idOf_kindOf (i := id') fun hunknown => by rw [hunknown] at hk; cases hk
  rw [hk] at hid'
  exact h (Option.some.inj hid').symm

/-- Settles O34: each row is the arm of its own kind. -/
theorem frameRowsTakeTheirOwnKind : Obligations.FrameRowsTakeTheirOwnKind := by
  intro s
  refine ⟨fun bytes hfull hread => ⟨_, frameTaken_written hread, fun i hi => ?own⟩,
    fun h => frameArm_of_not (h.imp_right (kindOf_ne_of_ne rfl)),
    fun h => frameArm_of_not (h.imp_right (kindOf_ne_of_ne rfl)),
    fun h => frameArm_of_not (h.imp_right (kindOf_ne_of_ne rfl)),
    fun h => frameArm_of_not (h.imp_right (kindOf_ne_of_ne rfl)), fun id h => ?foreign⟩
  case own =>
    refine Eq.trans ?_ (takeFrame_of_read hread)
    rcases hi with ⟨rfl, hid⟩ | ⟨rfl, hid⟩ | ⟨rfl, hid⟩ | ⟨rfl, hid⟩ | ⟨rfl, hid⟩
    · exact frameArm_of_kind hfull (hid ▸ kindOf_idGear)
    · exact frameArm_of_kind hfull (hid ▸ kindOf_idSpeed)
    · exact frameArm_of_kind hfull (hid ▸ kindOf_idRpm)
    · exact frameArm_of_kind hfull (hid ▸ kindOf_idIndicator)
    · exact (if_pos rfl).trans (frameArm_of_kind hfull ((kindOf_eq_unknown_iff _).2 hid))
  case foreign =>
    show execFrameUnknown id s = _
    unfold execFrameUnknown
    by_cases hid : s.c.rx.id = id
    · rw [if_pos hid]
      exact frameArm_of_not (h.imp_right fun h => hid ▸ h.resolve_left fun hne => hne hid)
    · exact if_neg hid

/-- Settles O35: without an unread frame a poll that finds none, with one of length 0 a poll that takes no byte. -/
theorem frameNoneReportsNoMessage : Obligations.FrameNoneReportsNoMessage := by
  intro s
  refine ⟨fun h => ?none, fun hfull hlen => ?longer⟩
  case none =>
    cases hfull : s.c.rx.full with
    | false =>
      refine ⟨_, Config.freeKind s.free, s.free + 1, slotWritten_clearSlot _ _, ?_⟩
      show execFrameNone s = _
      rw [execFrameNone, if_neg (by simp [hfull]), ← hfull]
      rfl
    | true =>
      have hlen : s.c.rx.len = 0 := h.resolve_left (by simp [hfull])
      have hread : memRead .crx s.c.rx.len.toNat s.mem = .ok [] := by rw [hlen]; rfl
      refine ⟨_, kindOf s.c.rx.id, s.free, frameTaken_written hread, ?_⟩
      show execFrameNone s = _
      rw [execFrameNone, if_pos hfull, if_pos hlen, takeFrame_of_read hread, frameTaken, hlen]
  case longer =>
    show execFrameNone s = _
    rw [execFrameNone, if_pos hfull, if_neg hlen]

/-! ### A frame over several steps -/

/-- A poll of an unread frame, by what later steps see of it (R142). -/
theorem canRx_takes {s : State} {bytes : List Byte} (hfull : s.c.rx.full = true)
    (hread : memRead .crx s.c.rx.len.toNat s.mem = .ok bytes) :
    ∃ t, exec .canRx s = .next t ∧ t.c.msg = ⟨kindOf s.c.rx.id, s.c.rx.len⟩ ∧
      memRead .cmsg s.c.rx.len.toNat t.mem = .ok bytes ∧ t.c.rx.full = false := by
  obtain ⟨m, hwritten, hexec⟩ := (canRxTakesTheFrameOrReportsNone s).1 bytes hfull hread
  obtain ⟨hmax, hlength, -⟩ := memRead_ok hread
  refine ⟨_, hexec, rfl, ?_, rfl⟩
  have hall := hwritten.memRead_all (by omega)
  rwa [hlength] at hall

/-- The message register and its bytes are what they were. -/
def MsgKept (s t : State) : Prop :=
  t.c.msg = s.c.msg ∧ ∀ j, j < 8 → readByte t.mem (slotBase .cmsg + j) = readByte s.mem (slotBase .cmsg + j)

theorem MsgKept.refl (s : State) : MsgKept s s := ⟨rfl, fun _ _ => rfl⟩

theorem MsgKept.trans {s t u : State} (h : MsgKept s t) (h' : MsgKept t u) : MsgKept s u :=
  ⟨h'.1.trans h.1, fun j hj => (h'.2 j hj).trans (h.2 j hj)⟩

/-- The receive slot of a node, registers and bytes, is what it was. -/
def RxKept (r : Role) (s t : State) : Prop :=
  t.rx r = s.rx r ∧
    ∀ j, j < 8 → readByte t.mem (slotBase (rxSlot r) + j) = readByte s.mem (slotBase (rxSlot r) + j)

theorem RxKept.refl (r : Role) (s : State) : RxKept r s s := ⟨rfl, fun _ _ => rfl⟩

theorem RxKept.trans {r : Role} {s t u : State} (h : RxKept r s t) (h' : RxKept r t u) : RxKept r s u :=
  ⟨h'.1.trans h.1, fun j hj => (h'.2 j hj).trans (h.2 j hj)⟩

/-- A slot of another node keeps its bytes across a reset (R310). -/
theorem readByte_resetNode_other {n : Role} {sl : Slot} (hsl : sl ∉ nodeSlots n) (s : State) {j : Nat} (hj : j < 8) :
    readByte (resetNode n s).mem (slotBase sl + j) = readByte s.mem (slotBase sl + j) := by
  have hout : inNode n (slotBase sl + j) = false := by
    rw [inNode, List.any_eq_false]
    intro sl' hsl' hin
    obtain rfl := (inSlot_add _ _ hj).1 hin
    exact hsl hsl'
  rw [readByte_resetNode, hout]
  rfl

theorem rxSlot_not_mem_nodeSlots {n r : Role} (h : n ≠ r) : rxSlot r ∉ nodeSlots n := by
  revert h; cases n <;> cases r <;> decide

@[simp] theorem State.rx_setFree (s : State) (f : Nat) (r : Role) : ({ s with free := f } : State).rx r = s.rx r := by
  cases r <;> rfl

/-- A reset leaves the receive slots of the other nodes (R310). -/
theorem resetNode_rx {n r : Role} (h : n ≠ r) (s : State) : (resetNode n s).rx r = s.rx r := by
  revert h; cases n <;> cases r <;> simp [resetNode, State.rx]

/-- A reset leaves the transmit slots of the other nodes (R310). -/
theorem resetNode_tx {n r : Role} (h : n ≠ r) (s : State) : (resetNode n s).tx r = s.tx r := by
  revert h; cases n <;> cases r <;> simp [resetNode, State.tx]

/-- Everything an instruction can do to a receive slot (R142, R143, R310): leave it; free it, by a poll on `C` or by a
reset; fill it, by a delivery of another node. -/
theorem exec_rx {i : Instr} {s t : State} (hexec : exec i s = .next t) (r : Role) :
    RxKept r s t ∨ ((t.rx r).full = false ∧ ((r = .c ∧ isPoll i) ∨ i = .reset r)) ∨
      ∃ src, i = .busDeliver src ∧ src ≠ r ∧ deliver src s = .next t := by
  cases exec_effect hexec with
  | input n x f hi htx hrx =>
    refine .inl ⟨?_, fun j _ => by simp⟩
    rw [State.rx_setFree, State.setProd_rx]
    split_ifs with hr
    · subst hr; cases n <;> exact hrx
    · rfl
  | gear | ind | timer | isr => left; cases r <;> exact ⟨rfl, fun _ _ => rfl⟩
  | transmit n id len p m bytes hi hm =>
    refine .inl ⟨by simp, fun j hj => ?_⟩
    simpa using hm.other (txSlot_ne_rxSlot n r).symm hj
  | poll u p hi hu =>
    rcases hu with rfl | rfl | ⟨bytes, hread, hfull, rfl⟩
    · exact .inl ⟨by simp, fun j _ => by simp⟩
    · refine .inl ⟨by cases r <;> rfl, fun j hj => ?_⟩
      exact (slotWritten_clearSlot .cmsg s.mem).other (by cases r <;> decide) hj
    · have hbytes : ∀ j, j < 8 → readByte (memWrite .cmsg bytes s.mem) (slotBase (rxSlot r) + j) =
          readByte s.mem (slotBase (rxSlot r) + j) := fun j hj =>
        (frameTaken_written hread).other (by cases r <;> decide) hj
      cases r with
      | p1 | p2 => exact .inl ⟨rfl, hbytes⟩
      | c => exact .inr (.inl ⟨rfl, .inl ⟨rfl, hi⟩⟩)
  | handle u p hi hu => left; rw [hu.frame]; cases r <;> exact ⟨rfl, fun _ _ => rfl⟩
  | bus src t hi ht =>
    by_cases hr : src = r
    · subst hr
      obtain ⟨bytes, -, -, h⟩ := deliver_delivered ht
      exact .inl ⟨h.senderRx, fun j hj => h.slot_kept (fun r hr heq => hr (rxSlot_injective heq).symm) hj⟩
    · exact .inr (.inr ⟨src, hi, hr, ht⟩)
  | reset n hi =>
    by_cases hn : n = r
    · subst hn
      exact .inr (.inl ⟨by cases n <;> rfl, .inr hi⟩)
    · exact .inl ⟨resetNode_rx hn s, fun j hj => readByte_resetNode_other (rxSlot_not_mem_nodeSlots hn) s hj⟩

/-- Settles O37: a slot that is full after an instruction was left or filled, not freed. -/
theorem framesArriveByDeliveryOnly : Obligations.FramesArriveByDeliveryOnly := by
  intro i s t r hexec hfull
  rcases exec_rx hexec r with hkept | ⟨hfreed, -⟩ | ⟨src, hi, hne, hdeliver⟩
  · exact .inl hkept
  · rw [hfreed] at hfull; cases hfull
  · obtain ⟨bytes, hreq, hread, h⟩ := deliver_delivered hdeliver
    obtain ⟨-, hlength, hbytes⟩ := memRead_ok hread
    refine .inr ⟨src, hi, hne, hreq, h.received r hne.symm, fun j hj => ?_⟩
    rw [h.receivedBytes r hne.symm j hj]
    by_cases hin : j < (s.tx src).len.toNat
    · rw [if_pos hin, hbytes j hin]
    · rw [if_neg hin, List.getElem?_eq_none (by omega)]

/-- Only a poll or a reset of `C` touches the message register and its bytes (R25, R142). -/
theorem exec_keeps_msg {i : Instr} {s t : State} (hi : ¬ isPoll i ∧ i ≠ .reset .c) (hexec : exec i s = .next t) :
    MsgKept s t := by
  cases exec_effect hexec with
  | input n x f => cases n <;> exact ⟨rfl, fun _ _ => rfl⟩
  | gear | ind | timer | isr => exact ⟨rfl, fun _ _ => rfl⟩
  | transmit n id len p m bytes hi hm =>
    refine ⟨by simp, fun j hj => ?_⟩
    simpa using hm.other (sl' := .cmsg) (by cases n <;> decide) hj
  | poll u p hpoll => exact absurd hpoll hi.1
  | handle u p hh hu => rw [hu.frame]; exact ⟨rfl, fun _ _ => rfl⟩
  | bus src t hsrc ht =>
    obtain ⟨bytes, -, -, h⟩ := deliver_delivered ht
    refine ⟨by rw [deliver_frame ht], fun j hj => h.slot_kept (fun r _ heq => ?_) hj⟩
    cases r <;> cases heq
  | reset n hn =>
    have hc : n ≠ .c := fun h => hi.2 (h ▸ hn)
    refine ⟨by rw [resetNode_c hc], fun j hj => readByte_resetNode_other ?_ s hj⟩
    revert hc
    cases n <;> decide

/-- An instruction that neither delivers to `C` nor polls nor resets it leaves its receive slot (R145). -/
theorem exec_keeps_rx_c {i : Instr} {s t : State}
    (hi : ¬ isPoll i ∧ i ≠ .reset .c ∧ i ≠ .busDeliver .p1 ∧ i ≠ .busDeliver .p2) (hexec : exec i s = .next t) :
    RxKept .c s t := by
  obtain ⟨hpoll, hreset, h1, h2⟩ := hi
  rcases exec_rx hexec .c with hkept | ⟨-, ⟨-, hp⟩ | hr⟩ | ⟨src, rfl, hne, -⟩
  · exact hkept
  · exact absurd hp hpoll
  · exact absurd hr hreset
  · cases src with
    | p1 => exact absurd rfl h1
    | p2 => exact absurd rfl h2
    | c => exact absurd rfl hne

/-- A frame that was delivered whole to `C` and left there is read whole (R62, R143). -/
theorem memRead_crx_of_kept {src : Role} {bytes : List Byte} {u v x : State} (hsrc : Role.c ≠ src)
    (hread : memRead (txSlot src) (u.tx src).len.toNat u.mem = .ok bytes) (h : Delivered src bytes u v)
    (hkept : RxKept .c v x) : memRead .crx (u.tx src).len.toNat x.mem = .ok bytes := by
  obtain ⟨hmax, hlength, -⟩ := memRead_ok hread
  rw [← hlength]
  exact memRead_eq (by omega) fun j hj => by
    rw [← h.receivedBytes .c hsrc j (by omega)]
    exact hkept.2 j (by omega)

/-- Settles O36: the second delivery fills the slot whatever it held; the message is kept across deliveries and the
steps between, the slot across the steps after, until the poll takes it. -/
theorem laterDeliveryReplacesTheUnreadFrame : Obligations.LaterDeliveryReplacesTheUnreadFrame := by
  intro a b r between s t u v bytes hra hrb hfirst hbetween hread hsecond
  obtain ⟨bytes', -, hread', h⟩ := deliver_delivered hsecond
  obtain rfl : bytes = bytes' := by rw [hread] at hread'; exact Except.ok.inj hread'
  refine ⟨⟨h.received r hrb, h.receivedBytes r hrb⟩, fun hquiet => ?message, ?poll⟩
  case message =>
    have hs : MsgKept s t := exec_keeps_msg (by simp [isPoll]) hfirst
    have ht : MsgKept t u := execAll_induction MsgKept.refl MsgKept.trans exec_keeps_msg hquiet hbetween
    have hu : MsgKept u v := exec_keeps_msg (by simp [isPoll]) hsecond
    exact (hs.trans ht).trans hu
  case poll =>
    rintro rfl after x hquiet hafter
    have hkept : RxKept .c v x :=
      execAll_induction (RxKept.refl .c) RxKept.trans exec_keeps_rx_c hquiet hafter
    have hrx : x.c.rx = ⟨(u.tx b).id, (u.tx b).len, true⟩ := hkept.1.trans (h.received .c hrb)
    obtain ⟨y, hy, hmsg, hbytes, -⟩ := canRx_takes (s := x) (bytes := bytes) (by rw [hrx])
      (by rw [hrx]; exact memRead_crx_of_kept hrb hread h hkept)
    rw [hrx] at hmsg hbytes
    exact ⟨y, hy, hmsg, hbytes⟩

/-- Settles O38: the second staging is whole, its delivery reaches `C`, and the poll takes it and frees the slot. -/
theorem secondTransmissionIsTheOneReceived : Obligations.SecondTransmissionIsTheOneReceived := by
  intro n k k' len len' p p' s t1 t2 _ hsecond
  obtain ⟨id, hid, -, hmax, hsize, rfl⟩ := exec_canTx_eq_next.1 hsecond
  have hwritten : SlotWritten t1.mem (memWrite (txSlot n.role) p' t1.mem) (txSlot n.role) p' :=
    slotWritten_memWrite (by omega) _ _
  generalize ht2 : (t1.setTx n.role ⟨id, len', true⟩).setMem (memWrite (txSlot n.role) p' t1.mem) = t2
  have htx : t2.tx n.role = ⟨id, len', true⟩ := by simp [← ht2]
  have hread : memRead (txSlot n.role) (t2.tx n.role).len.toNat t2.mem = .ok p' := by
    rw [htx, ← ht2, ← hsize]
    exact hwritten.memRead_all (by omega)
  have hc : Role.c ≠ n.role := by cases n <;> decide
  obtain ⟨t3, h3, hdelivered⟩ := deliver_answers (by rw [htx]) hread
  have hrx : t3.c.rx = ⟨id, len', true⟩ := by
    have hreceived := hdelivered.received .c hc
    rwa [htx] at hreceived
  have hrxRead : memRead .crx t3.c.rx.len.toNat t3.mem = .ok p' := by
    rw [hrx, ← memRead_crx_of_kept hc hread hdelivered (RxKept.refl .c t3), htx]
  obtain ⟨t4, h4, hmsg, hbytes, hfree⟩ := canRx_takes (by rw [hrx]) hrxRead
  obtain ⟨m, k5, f, -, h5⟩ := (canRxTakesTheFrameOrReportsNone t4).2 hfree
  rw [hrx] at hmsg hbytes
  exact ⟨t3, t4, _, h3, h4, h5, hmsg.trans (by rw [kindOf_of_idOf hid]), hbytes, rfl⟩

end Sys2Proof.Machine
end

section
/-! SUPPORT. The invariants on reachable state (10_state.md R43, R29, R40): every instruction keeps them, and inside its
contract every instruction completes (60_exceptions.md R280). -/

namespace Sys2Proof.Machine

/-! ### Frames that are left where they are -/

/-- The transmit slot of a node, registers and bytes, is what it was. -/
def TxKept (n : Role) (s t : State) : Prop :=
  t.tx n = s.tx n ∧
    ∀ j, j < 8 → readByte t.mem (slotBase (txSlot n) + j) = readByte s.mem (slotBase (txSlot n) + j)

theorem SlotHolds.congr {m m' : Memory} {sl : Slot} {k : Nat} (h : SlotHolds m sl k)
    (hbytes : ∀ j, j < 8 → readByte m' (slotBase sl + j) = readByte m (slotBase sl + j)) : SlotHolds m' sl k :=
  fun j hj => by rw [hbytes j hj]; exact h j hj

theorem WholeFrame.congr {m m' : Memory} {sl : Slot} {id : Ident} {len : Len} (h : WholeFrame m sl id len)
    (hbytes : ∀ j, j < 8 → readByte m' (slotBase sl + j) = readByte m (slotBase sl + j)) : WholeFrame m' sl id len :=
  ⟨h.knownKind, h.lenPos, h.lenMax, h.bytes.congr hbytes⟩

theorem State.Inv.staged_of_kept {s t : State} (h : s.Inv) {n : Role} (hkept : TxKept n s t)
    (hreq : (t.tx n).req = true) : WholeFrame t.mem (txSlot n) (t.tx n).id (t.tx n).len := by
  rw [hkept.1] at hreq ⊢
  exact (h.staged n hreq).congr hkept.2

theorem State.Inv.received_of_kept {s t : State} (h : s.Inv) {n : Role} (hkept : RxKept n s t)
    (hfull : (t.rx n).full = true) : WholeFrame t.mem (rxSlot n) (t.rx n).id (t.rx n).len := by
  rw [hkept.1] at hfull ⊢
  exact (h.received n hfull).congr hkept.2

/-- What the invariants say of the message register (R43). -/
def MessageWhole (s : State) : Prop :=
  s.c.msg.len ≠ 0 →
    s.c.msg.kind ≠ .unknown ∧ s.c.msg.len.toNat ≤ Config.lenMax ∧ SlotHolds s.mem .cmsg s.c.msg.len.toNat

theorem State.Inv.message_of_kept {s t : State} (h : s.Inv) (hkept : MsgKept s t) : MessageWhole t := by
  intro hlen
  rw [hkept.1] at hlen ⊢
  obtain ⟨hkind, hmax, hbytes⟩ := h.message hlen
  exact ⟨hkind, hmax, hbytes.congr hkept.2⟩

/-- The invariants of a state that has the slots, the message and the memory of one that meets them. -/
theorem State.Inv.of_ranges {s t : State} (h : s.Inv) (hmem : t.mem = s.mem) (htx : ∀ n, t.tx n = s.tx n)
    (hrx : ∀ n, t.rx n = s.rx n) (hmsg : t.c.msg = s.c.msg) (hgear : t.gear.toNat ≤ Config.sentinel)
    (htick : t.c.tick.toNat < Config.tickMod) (hphase : ∀ n, (t.phase n).toNat < cycleLen n)
    (hnum : ∀ n, (t.prod n).num.toNat ≤ valMax n) : t.Inv where
  memWf := hmem ▸ h.memWf
  gearRange := hgear
  tickRange := htick
  phaseRange := hphase
  valueRange := hnum
  staged n := h.staged_of_kept ⟨htx n, fun _ _ => by rw [hmem]⟩
  received n := h.received_of_kept ⟨hrx n, fun _ _ => by rw [hmem]⟩
  message := h.message_of_kept ⟨hmsg, fun _ _ => by rw [hmem]⟩

/-! ### Each operation keeps the invariants -/

/-- A phase within its cycle may be written. -/
theorem State.Inv.setPhase {s : State} (h : s.Inv) {n : Role} {p : Phase} (hp : p.toNat < cycleLen n) :
    (s.setPhase n p).Inv := by
  refine h.of_ranges (by simp) (by simp) (by simp) (by simp) (by simpa using h.gearRange)
    (by simpa using h.tickRange) (fun k => ?_) (by simpa using h.valueRange)
  rw [State.setPhase_phase]
  split_ifs with hk
  · exact hk ▸ hp
  · exact h.phaseRange k

theorem State.Inv.advance {s : State} (h : s.Inv) (n : Role) : (s.advance n).Inv :=
  h.setPhase (nextPhase_lt n _)

theorem State.Inv.producerPhase {s : State} (h : s.Inv) (n : Producer) :
    (s.prod n).phase.toNat < cycleLen n.role := by
  cases n with
  | p1 => exact h.phaseRange .p1
  | p2 => exact h.phaseRange .p2

/-- The registers of a producer other than its slots may be written within their ranges (R29, R40). -/
theorem State.Inv.setProd {s : State} (h : s.Inv) {n : Producer} (r : ProducerNode) (htx : r.tx = (s.prod n).tx)
    (hrx : r.rx = (s.prod n).rx) (hphase : r.phase.toNat < cycleLen n.role) (hnum : r.num.toNat ≤ valMax n) :
    (s.setProd n r).Inv := by
  refine h.of_ranges (by simp) (fun k => ?_) (fun k => ?_) (by simp) (by simpa using h.gearRange)
    (by simpa using h.tickRange) (fun k => ?_) (fun k => ?_)
  · rw [State.setProd_tx]
    split_ifs with hk
    · subst hk; cases n <;> exact htx
    · rfl
  · rw [State.setProd_rx]
    split_ifs with hk
    · subst hk; cases n <;> exact hrx
    · rfl
  · rw [State.setProd_phase]
    split_ifs with hk
    · exact hk ▸ hphase
    · exact h.phaseRange k
  · rw [State.setProd_prod]
    split_ifs with hk
    · exact hk ▸ hnum
    · exact h.valueRange k

/-- The count of free values is no part of the invariants (log 12). -/
theorem State.Inv.setFree {s : State} (h : s.Inv) (f : Nat) : ({ s with free := f } : State).Inv :=
  ⟨h.memWf, h.gearRange, h.tickRange, h.phaseRange, h.valueRange, h.staged, h.received, h.message⟩

theorem State.Inv.setGear {s : State} (h : s.Inv) {g : Gear} (hg : g.toNat ≤ Config.sentinel) :
    ({ s with gear := g } : State).Inv :=
  ⟨h.memWf, hg, h.tickRange, h.phaseRange, h.valueRange, h.staged, h.received, h.message⟩

theorem State.Inv.setInd {s : State} (h : s.Inv) (x : Ind) : ({ s with ind := x } : State).Inv :=
  ⟨h.memWf, h.gearRange, h.tickRange, h.phaseRange, h.valueRange, h.staged, h.received, h.message⟩

/-- The turn of the free schedule and the script are no part of the invariants. -/
theorem State.Inv.setSchedule {s : State} (h : s.Inv) (feed : List StepWord) (turn : Nat) :
    ({ s with feed := feed, turn := turn } : State).Inv :=
  ⟨h.memWf, h.gearRange, h.tickRange, h.phaseRange, h.valueRange, h.staged, h.received, h.message⟩

/-- A key read keeps the phase and the sampled value (R182). -/
theorem State.Inv.edgeRead {s : State} (h : s.Inv) (n : Producer) (m : KeyMask) : (edgeRead n m s).Inv := by
  obtain ⟨kev, f, hread⟩ := edgeRead_effect n m s
  rw [hread]
  exact (h.setProd { s.prod n with armed := decide (m = Config.allReleased), kev := kev } rfl rfl (h.producerPhase n)
    (h.valueRange n)).setFree f

/-- Each key function keeps the gear's range (R43, R192). -/
theorem State.Inv.gearKeyArm {s : State} (h : s.Inv) (k : GearKey) : (gearKeyArm k s).Inv := by
  rw [gearKeyArm_eq]
  refine h.setGear ?_
  split_ifs
  · exact gearAfter_le k h.gearRange
  · exact h.gearRange

theorem State.Inv.indKeyArm {s : State} (h : s.Inv) (x : Ind) : (indKeyArm x s).Inv := by
  rw [indKeyArm_eq]
  exact h.setInd _

theorem State.Inv.gearLeft_le {s : State} (h : s.Inv) : (gearLeft s).toNat ≤ Config.sentinel := by
  unfold gearLeft
  split
  · exact gearAfter_le _ h.gearRange
  · exact h.gearRange

/-- The frame that the transmit primitive stages is whole (R141). -/
theorem transmit_wholeFrame {n : Role} {x : Transmission} {id : Ident} {m : Memory} (hid : idOf x.1 = some id)
    (hpos : x.2.2 ≠ 0) (hmax : x.2.2 ≤ 8) (hsize : x.2.1.length = x.2.2) :
    WholeFrame (memWrite (txSlot n) x.2.1 m) (txSlot n) id (BitVec.ofNat 4 x.2.2) := by
  have hlen : (BitVec.ofNat 4 x.2.2 : Len).toNat = x.2.2 := by rw [BitVec.toNat_ofNat]; omega
  refine ⟨?_, by omega, by rw [hlen]; exact hmax, ?_⟩
  · rw [kindOf_of_idOf hid]
    intro hunknown
    rw [hunknown] at hid
    cases hid
  · rw [hlen, ← hsize]
    exact (slotWritten_memWrite (by omega) _ _).holds

/-- The transmit primitive keeps the invariants: its slot takes a whole frame, and the others are left (R141). -/
theorem State.Inv.transmit {s t : State} (h : s.Inv) {n : Role} {x : Transmission}
    (ht : transmit n x s = .next t) : t.Inv := by
  obtain ⟨id, hid, hpos, hmax, hsize, rfl⟩ := transmit_eq_next.1 ht
  have hwritten : SlotWritten s.mem (memWrite (txSlot n) x.2.1 s.mem) (txSlot n) x.2.1 :=
    slotWritten_memWrite (by omega) _ _
  exact {
    memWf := wf_memWrite _ _ h.memWf (by omega)
    gearRange := by simpa using h.gearRange
    tickRange := by simpa using h.tickRange
    phaseRange := by simpa using h.phaseRange
    valueRange := by simpa using h.valueRange
    staged := fun k hreq => by
      by_cases hk : k = n
      · subst hk
        simpa using transmit_wholeFrame (m := s.mem) hid hpos hmax hsize
      · exact h.staged_of_kept ⟨by simp [hk], fun j hj =>
          hwritten.other (by revert hk; cases k <;> cases n <;> decide) hj⟩ hreq
    received := fun k => h.received_of_kept ⟨by simp, fun j hj => hwritten.other (txSlot_ne_rxSlot n k).symm hj⟩
    message := h.message_of_kept ⟨by simp, fun j hj => hwritten.other (by cases n <;> decide) hj⟩ }

/-- A producer's transmission keeps the invariants (R197 to R200). -/
theorem State.Inv.transmit_advance {s t : State} (h : s.Inv) {n : Role} {x : Transmission}
    (ht : andThen (Machine.transmit n x s) (fun u => u.advance n) = .next t) : t.Inv := by
  obtain ⟨u, hu, rfl⟩ := andThen_eq_next.1 ht
  exact (h.transmit hu).advance n

/-- A delivery keeps the memory canonical. -/
theorem wf_foldl_putFrame {id : Ident} {len : Len} {bytes : List Byte} (hmax : bytes.length ≤ 8) (rs : List Role)
    {s : State} (hwf : s.mem.wf = true) : (rs.foldl (putFrame id len bytes) s).mem.wf = true := by
  induction rs generalizing s with
  | nil => exact hwf
  | cons r rs ih => exact ih (wf_memWrite _ _ hwf hmax)

theorem wf_deliver {src : Role} {s t : State} (hwf : s.mem.wf = true) (ht : deliver src s = .next t) :
    t.mem.wf = true := by
  obtain ⟨-, bytes, hread, rfl⟩ := deliver_eq_next.1 ht
  obtain ⟨hmax, hlength, -⟩ := memRead_ok hread
  rw [State.setTx_mem]
  exact wf_foldl_putFrame (by omega) _ hwf

/-- A delivery keeps the invariants: the receivers take the sender's whole frame (R143). -/
theorem State.Inv.deliver {s t : State} (h : s.Inv) {src : Role} (ht : deliver src s = .next t) : t.Inv := by
  obtain ⟨bytes, hreq, hread, hd⟩ := deliver_delivered ht
  obtain ⟨hmax, hlength, -⟩ := memRead_ok hread
  have hframe := deliver_frame ht
  have hmsg : MsgKept s t := ⟨by rw [hframe], fun j hj => hd.slot_kept (fun r _ => by cases r <;> decide) hj⟩
  exact {
    memWf := wf_deliver h.memWf ht
    gearRange := by rw [hframe]; exact h.gearRange
    tickRange := by rw [hframe]; exact h.tickRange
    phaseRange := fun n => by rw [hframe]; have := h.phaseRange n; cases n <;> exact this
    valueRange := fun n => by rw [hframe]; have := h.valueRange n; cases n <;> exact this
    staged := fun n hn => by
      by_cases hsrc : n = src
      · subst hsrc
        rw [hd.senderTx] at hn
        cases hn
      · exact h.staged_of_kept ⟨hd.otherTx n hsrc, fun j hj =>
          hd.slot_kept (fun r _ => txSlot_ne_rxSlot n r) hj⟩ hn
    received := fun n hn => by
      by_cases hsrc : n = src
      · subst hsrc
        exact h.received_of_kept ⟨hd.senderRx, fun j hj =>
          hd.slot_kept (fun r hr heq => hr (rxSlot_injective heq).symm) hj⟩ hn
      · obtain ⟨hkind, hpos, hlen, -⟩ := h.staged src hreq
        rw [hd.received n hsrc]
        refine ⟨hkind, hpos, hlen, fun j hj => ?_⟩
        rw [hd.receivedBytes n hsrc j hj, ← hlength]
        simp
    message := h.message_of_kept hmsg }

/-- A poll keeps the invariants: the message takes the unread frame, which is whole (R142). -/
theorem State.Inv.poll {s t : State} (h : s.Inv) (ht : PollEffect s t) : t.Inv := by
  rcases ht with rfl | rfl | ⟨bytes, hread, hfull, rfl⟩
  · exact h
  · have hwritten := slotWritten_clearSlot .cmsg s.mem
    exact {
      memWf := wf_clearSlot _ h.memWf
      gearRange := h.gearRange
      tickRange := h.tickRange
      phaseRange := fun n => by have := h.phaseRange n; cases n <;> exact this
      valueRange := fun n => by have := h.valueRange n; cases n <;> exact this
      staged := fun n => h.staged_of_kept ⟨by cases n <;> rfl, fun j hj =>
        hwritten.other (by cases n <;> decide) hj⟩
      received := fun n => h.received_of_kept ⟨by cases n <;> rfl, fun j hj =>
        hwritten.other (by cases n <;> decide) hj⟩
      message := fun hlen => absurd rfl hlen }
  · have hwritten := frameTaken_written hread
    obtain ⟨hmax, hlength, -⟩ := memRead_ok hread
    obtain ⟨hkind, -, hlen, -⟩ := h.received .c hfull
    exact {
      memWf := wf_memWrite _ _ h.memWf (by omega)
      gearRange := h.gearRange
      tickRange := h.tickRange
      phaseRange := fun n => by have := h.phaseRange n; cases n <;> exact this
      valueRange := fun n => by have := h.valueRange n; cases n <;> exact this
      staged := fun n => h.staged_of_kept ⟨by cases n <;> rfl, fun j hj =>
        hwritten.other (by cases n <;> decide) hj⟩
      received := fun n hn => by
        cases n with
        | p1 => exact h.received_of_kept (n := .p1) ⟨rfl, fun j hj => hwritten.other (by decide) hj⟩ hn
        | p2 => exact h.received_of_kept (n := .p2) ⟨rfl, fun j hj => hwritten.other (by decide) hj⟩ hn
        | c => cases hn
      message := fun _ => ⟨hkind, hlen, by
        have hholds := hwritten.holds
        rwa [hlength] at hholds⟩ }

/-- A handler of `C` touches nothing that the invariants speak of (R221). -/
theorem State.Inv.handler {s t : State} (h : s.Inv) (ht : HandlerEffect s t) : t.Inv := by
  rw [ht.frame]
  exact h.of_ranges rfl (fun n => by cases n <;> rfl) (fun n => by cases n <;> rfl) rfl h.gearRange h.tickRange
    (fun n => by have := h.phaseRange n; cases n <;> exact this)
    (fun n => by have := h.valueRange n; cases n <;> exact this)

theorem State.Inv.raiseTick {s : State} (h : s.Inv) : (raiseTick s).Inv :=
  h.of_ranges rfl (fun n => by cases n <;> rfl) (fun n => by cases n <;> rfl) rfl h.gearRange h.tickRange
    (fun n => by have := h.phaseRange n; cases n <;> exact this)
    (fun n => by have := h.valueRange n; cases n <;> exact this)

/-- `TICK.ISR` is enabled only with the pending flag set (R268, log 13). -/
theorem exec_tickIsr (s : State) :
    exec .tickIsr s = if s.c.tickIf then .next (takeTickInterrupt s) else .refused .notEnabled := rfl

/-- The counter after a tick, by its number: one more, modulo `TICK_MOD` (R268, R269). -/
theorem takeTickInterrupt_tick {s : State} (h : s.c.tick.toNat < Config.tickMod) :
    (takeTickInterrupt s).c.tick.toNat = (s.c.tick.toNat + 1) % Config.tickMod := by
  have hmod : Config.tickMod = 20000 := rfl
  rw [hmod] at h ⊢
  show (if s.c.tick.toNat = 19999 then (0 : Tick) else s.c.tick + 1).toNat = _
  by_cases hwrap : s.c.tick.toNat = 19999
  · rw [if_pos hwrap, hwrap]; rfl
  · have hone : (1 : Tick).toNat = 1 := rfl
    have hpow : 2 ^ Config.tickW = 65536 := rfl
    rw [if_neg hwrap, BitVec.toNat_add, hone, hpow, Nat.mod_eq_of_lt (by omega), Nat.mod_eq_of_lt (by omega)]

theorem State.Inv.takeTickInterrupt {s : State} (h : s.Inv) : (takeTickInterrupt s).Inv := by
  refine h.of_ranges rfl (fun n => by cases n <;> rfl) (fun n => by cases n <;> rfl) rfl h.gearRange ?_
    (fun n => by have := h.phaseRange n; cases n <;> exact this)
    (fun n => by have := h.valueRange n; cases n <;> exact this)
  rw [takeTickInterrupt_tick h.tickRange]
  exact Nat.mod_lt _ (by decide)

theorem wf_resetNode (n : Role) {s : State} (hwf : s.mem.wf = true) : (resetNode n s).mem.wf = true := by
  cases n with
  | p1 | p2 => exact wf_clearSlot _ (wf_clearSlot _ hwf)
  | c => exact wf_clearSlot _ (wf_clearSlot _ (wf_clearSlot _ hwf))

/-- A reset phase lies in every cycle, another node's phase is what it was (R29, R310). -/
theorem resetNode_phase (n k : Role) (s : State) : (resetNode n s).phase k = if k = n then 0 else s.phase k := by
  cases n <;> cases k <;> rfl

theorem resetNode_num (n : Role) (k : Producer) (s : State) :
    ((resetNode n s).prod k).num = if k.role = n then 0 else (s.prod k).num := by
  cases n <;> cases k <;> rfl

/-- A reset keeps the invariants: the node holds no frame and no message, the others are left (R45, R310). -/
theorem State.Inv.resetNode {s : State} (h : s.Inv) (n : Role) : (resetNode n s).Inv where
  memWf := wf_resetNode n h.memWf
  gearRange := by
    cases n with
    | p1 => exact Nat.zero_le _
    | p2 | c => exact h.gearRange
  tickRange := by
    cases n with
    | p1 | p2 => exact h.tickRange
    | c => exact show 0 < 20000 by decide
  phaseRange k := by
    rw [resetNode_phase]
    split_ifs
    · cases k <;> decide
    · exact h.phaseRange k
  valueRange k := by
    rw [resetNode_num]
    split_ifs
    · exact Nat.zero_le _
    · exact h.valueRange k
  staged k hreq := by
    by_cases hk : n = k
    · subst hk; cases n <;> cases hreq
    · exact h.staged_of_kept ⟨resetNode_tx hk s, fun j hj =>
        readByte_resetNode_other (by revert hk; cases k <;> cases n <;> decide) s hj⟩ hreq
  received k hfull := by
    by_cases hk : n = k
    · subst hk; cases n <;> cases hfull
    · exact h.received_of_kept ⟨resetNode_rx hk s, fun j hj =>
        readByte_resetNode_other (rxSlot_not_mem_nodeSlots hk) s hj⟩ hfull
  message := by
    cases n with
    | p1 => exact h.message_of_kept ⟨rfl, fun j hj => readByte_resetNode_other (n := .p1) (by decide) s hj⟩
    | p2 => exact h.message_of_kept ⟨rfl, fun j hj => readByte_resetNode_other (n := .p2) (by decide) s hj⟩
    | c => exact fun hlen => absurd rfl hlen

/-- Every instruction keeps the invariants (R43). -/
theorem exec_keeps_inv {i : Instr} {s t : State} (h : s.Inv) (ht : exec i s = .next t) : t.Inv := by
  cases i with
  | reserved => cases ht
  | keyLevel n m =>
    cases ht
    exact h.setProd { s.prod n with kev := ⟨true, m⟩ } rfl rfl (h.producerPhase n) (h.valueRange n)
  | keyEdge n m => cases ht; exact (h.edgeRead n m).advance n.role
  | sample n v =>
    rw [exec_sample, ← nextPhase_producer n] at ht
    split at ht <;> cases ht
    exact h.setProd { s.prod n with num := v, phase := nextPhase n.role (s.prod n).phase } rfl rfl (nextPhase_lt _ _)
      ‹v.toNat ≤ valMax n›
  | gearStep =>
    rw [exec_gearStep] at ht
    cases ht
    exact (h.setGear h.gearLeft_le).advance .p1
  | indStep =>
    rw [exec_indStep] at ht
    cases ht
    exact (h.setInd ((indKeyEvent s).getD s.ind)).advance .p2
  | txGear => exact h.transmit_advance (n := .p1) (x := mkGear s.gear) ht
  | txSpeed => exact h.transmit_advance (n := .p1) (x := mkSpeed s.p1.num) ht
  | txRpm => exact h.transmit_advance (n := .p2) (x := mkRpm s.p2.num) ht
  | txInd => exact h.transmit_advance (n := .p2) (x := mkInd s.ind) ht
  | canRx =>
    obtain ⟨u, hu, rfl⟩ := canRx_effect ht
    exact (h.poll hu).advance .c
  | dispatch =>
    obtain ⟨u, hu, rfl⟩ := dispatch_effect ht
    exact (h.handler hu).setPhase (by decide)
  | busDeliver src => exact h.deliver ht
  | timerFire => cases ht; exact h.raiseTick
  | tickIsr =>
    rw [exec_tickIsr] at ht
    split at ht <;> cases ht
    exact h.takeTickInterrupt
  | reset n => cases ht; exact h.resetNode n
  | canTx n k len payload => exact h.transmit ht
  | frameGear | frameSpeed | frameRpm | frameIndicator | frameUnknown | frameNone =>
    exact h.poll (frame_rows_effect ht (by simp))
  | gearbyteDisplay | gearbyteSentinel | gearbyteOutOfRange | indOff | indLeft | indRight | indHazard | indIgnored
  | modeNormal | modeCollision => exact h.handler (handler_rows_effect ht (by simp))
  | keyP1Increment | keyP1Decrement | keyP1Collision => cases ht; exact h.gearKeyArm _
  | keyP2Left | keyP2Right | keyP2Hazard | keyP2Off => cases ht; exact h.indKeyArm _
  | keyAllReleased n => cases ht; exact h.edgeRead n _

end Sys2Proof.Machine
end

section
/-! SUPPORT. Completion (60_exceptions.md R280): from a state that meets the invariants every instruction answers a next
state inside its contract and is refused outside it. -/

namespace Sys2Proof.Machine

/-- An outcome that is a next state. -/
def Completes (o : Result) : Prop := ∃ t, o = .next t

theorem completes_next (s : State) : Completes (.next s) := ⟨s, rfl⟩

theorem completes_withRead {α : Type} {x : Except Fault α} {f : α → State} (h : ∃ v, x = .ok v) :
    Completes (withRead x f) := by
  obtain ⟨v, rfl⟩ := h
  exact completes_next _

theorem Completes.andThen {o : Result} (h : Completes o) (f : State → State) : Completes (andThen o f) := by
  obtain ⟨s, rfl⟩ := h
  exact completes_next _

theorem Completes.ite {o o' : Result} {c : Prop} [Decidable c] (h : c → Completes o) (h' : ¬c → Completes o') :
    Completes (if c then o else o') := by
  by_cases hc : c
  · rw [if_pos hc]; exact h hc
  · rw [if_neg hc]; exact h' hc

/-! ### What the invariants give to the reads -/

/-- The bytes of a message that is there can be read (R43). -/
theorem State.Inv.messageBytes_ok {s : State} (h : s.Inv) (hlen : s.c.msg.len ≠ 0) :
    ∃ bytes, messageBytes s.c.msg.len.toNat s = .ok bytes := by
  obtain ⟨-, hmax, hbytes⟩ := h.message hlen
  exact memRead_of_slotHolds hmax hbytes

/-- The first byte of a message that is there can be read (R43, R237). -/
theorem State.Inv.messageByte_ok {s : State} (h : s.Inv) (hlen : s.c.msg.len ≠ 0) : ∃ v, messageByte s = .ok v := by
  obtain ⟨-, -, hbytes⟩ := h.message hlen
  have hpos : 0 < s.c.msg.len.toNat := Nat.pos_of_ne_zero fun h0 => hlen (BitVec.eq_of_toNat_eq h0)
  obtain ⟨v, hv⟩ := Option.isSome_iff_exists.1 ((hbytes 0 (by decide)).2 hpos)
  exact ⟨v, messageByte_eq_ok.2 hv⟩

theorem State.Inv.takeFrame_completes {s : State} (h : s.Inv) (hfull : s.c.rx.full = true) :
    Completes (takeFrame s) :=
  have hframe := h.received .c hfull
  completes_withRead (memRead_of_slotHolds hframe.lenMax hframe.bytes)

theorem State.Inv.frameArm_completes {s : State} (h : s.Inv) (k : Kind) : Completes (frameArm k s) :=
  .ite (fun hc => h.takeFrame_completes hc.1) fun _ => completes_next s

theorem State.Inv.deliver_completes {s : State} (h : s.Inv) {src : Role} (hreq : (s.tx src).req = true) :
    Completes (Machine.deliver src s) := by
  have hframe := h.staged src hreq
  obtain ⟨bytes, hread⟩ := memRead_of_slotHolds hframe.lenMax hframe.bytes
  obtain ⟨t, ht, -⟩ := deliver_answers hreq hread
  exact ⟨t, ht⟩

/-- Routing completes in either mode: it reads a message that is there only (R221). -/
theorem State.Inv.route_completes {s : State} (h : s.Inv) : Completes (route s) := by
  refine .ite (fun _ => completes_next s) fun hlen => ?_
  cases s.c.mode with
  | normal =>
    show Completes (routeNormal s)
    unfold routeNormal
    cases s.c.msg.kind with
    | gear | indicator => exact completes_withRead (h.messageByte_ok hlen)
    | speed | rpm => exact completes_withRead (h.messageBytes_ok hlen)
    | unknown => exact completes_next s
  | collision =>
    show Completes (routeCollision s)
    unfold routeCollision
    cases s.c.msg.kind with
    | gear => exact completes_withRead (h.messageByte_ok hlen)
    | speed | rpm | indicator | unknown => exact completes_next s

theorem State.Inv.gearByteArm_completes {s : State} (h : s.Inv) (v : Byte) : Completes (gearByteArm v s) :=
  .ite (fun hmsg => completes_withRead (h.messageByte_ok ((hasMessage_iff _ _).1 hmsg).1)) fun _ => completes_next s

theorem State.Inv.indByteArm_completes {s : State} (h : s.Inv) (v : Byte) : Completes (indByteArm v s) :=
  .ite (fun hmsg => completes_withRead (h.messageByte_ok ((hasMessage_iff _ _).1 hmsg.2).1)) fun _ => completes_next s

/-! ### The transmissions of the producers -/

theorem transmit_completes {n : Role} {x : Transmission} {id : Ident} (hid : idOf x.1 = some id) (hpos : x.2.2 ≠ 0)
    (hmax : x.2.2 ≤ 8) (hsize : x.2.1.length = x.2.2) (s : State) : Completes (transmit n x s) :=
  ⟨_, transmit_eq_next.2 ⟨id, hid, hpos, hmax, hsize, rfl⟩⟩

/-- Each of the four kinds has an identifier (R160). -/
theorem idOf_of_known {k : Kind} (h : k ≠ .unknown) : ∃ id, idOf k = some id := by
  cases k with
  | unknown => exact absurd rfl h
  | gear | speed | rpm | indicator => exact ⟨_, rfl⟩

/-- A number within a node's range has an encoding that can be sent (R170, R171). -/
theorem transmit_encNum_completes {n : Role} {k : Kind} {id : Ident} {v : Nat} (hid : idOf k = some id)
    (hv : v ≤ 99999) (s : State) : Completes (transmit n (k, encNum v, (encNum v).length) s) := by
  have hmax : (encNum v).length ≤ 5 := encNum_length_le (by decide) (by omega)
  have hpos : (encNum v).length ≠ 0 := (List.length_pos_iff.2 (encNum_ne_nil v)).ne'
  exact transmit_completes hid hpos (by dsimp only; omega) rfl s

/-! ### Every instruction -/

/-- Inside its contract an instruction completes (R112, R141, R143, R191, R268). -/
theorem exec_completes {i : Instr} {s : State} (h : s.Inv) (hi : InContract s i) : Completes (exec i s) := by
  cases i with
  | reserved => exact hi.elim
  | sample n v => exact ⟨_, (exec_sample n v s).trans (if_pos hi)⟩
  | gearStep => rw [exec_gearStep]; exact completes_next _
  | indStep => rw [exec_indStep]; exact completes_next _
  | txGear =>
    exact (transmit_completes (n := .p1) (x := mkGear s.gear) rfl Nat.one_ne_zero (show 1 ≤ 8 by decide) rfl s).andThen
      fun t => t.advance .p1
  | txInd =>
    exact (transmit_completes (n := .p2) (x := mkInd s.ind) rfl Nat.one_ne_zero (show 1 ≤ 8 by decide) rfl s).andThen
      fun t => t.advance .p2
  | txSpeed =>
    have hnum : s.p1.num.toNat ≤ 999 := h.valueRange .p1
    exact (transmit_encNum_completes (k := .speed) rfl (by omega) s).andThen _
  | txRpm => exact (transmit_encNum_completes (k := .rpm) rfl (h.valueRange .p2) s).andThen _
  | canRx => exact .ite (fun hfull => (h.takeFrame_completes hfull).andThen _) fun _ => completes_next _
  | dispatch => exact h.route_completes.andThen _
  | busDeliver src => exact h.deliver_completes hi
  | tickIsr => exact ⟨_, (exec_tickIsr s).trans (if_pos hi)⟩
  | canTx n k len payload =>
    obtain ⟨hkind, hpos, hmax, hsize⟩ := hi
    obtain ⟨id, hid⟩ := idOf_of_known hkind
    exact ⟨_, exec_canTx_eq_next.2 ⟨id, hid, hpos, hmax, hsize, rfl⟩⟩
  | frameGear | frameSpeed | frameRpm | frameIndicator => exact h.frameArm_completes _
  | frameUnknown id => exact .ite (fun _ => h.frameArm_completes _) fun _ => completes_next _
  | frameNone =>
    exact .ite (fun hfull => .ite (fun _ => h.takeFrame_completes hfull) fun _ => completes_next _) fun _ =>
      completes_next _
  | gearbyteSentinel => exact h.gearByteArm_completes _
  | gearbyteDisplay v | gearbyteOutOfRange v =>
    exact .ite (fun _ => h.gearByteArm_completes v) fun _ => completes_next _
  | indOff | indLeft | indRight | indHazard => exact h.indByteArm_completes _
  | indIgnored v => exact .ite (fun _ => h.indByteArm_completes v) fun _ => completes_next _
  | modeNormal | modeCollision => exact .ite (fun _ => h.route_completes) fun _ => completes_next _
  | keyLevel | keyEdge | timerFire | reset | keyP1Increment | keyP1Decrement | keyP1Collision | keyP2Left | keyP2Right
  | keyP2Hazard | keyP2Off | keyAllReleased => exact completes_next _

/-- Outside its contract an instruction is refused, in any state (R112, R141, R143, R191, R268). -/
theorem exec_refused {i : Instr} {s : State} (hi : ¬ InContract s i) : ∃ r, exec i s = .refused r := by
  cases i with
  | reserved => exact ⟨_, rfl⟩
  | sample n v => exact ⟨_, (exec_sample n v s).trans (if_neg hi)⟩
  | canTx n k len payload =>
    refine ⟨_, transmit_refused ?_⟩
    by_contra hnone
    rw [not_or, not_or, not_or, Nat.not_lt, not_not] at hnone
    exact hi hnone
  | busDeliver src => exact ⟨_, deliver_refused (eq_false_of_ne_true hi)⟩
  | tickIsr => exact ⟨_, (exec_tickIsr s).trans (if_neg hi)⟩
  | _ => exact absurd trivial hi

/-- Settles O12: an instruction completes, and what completes keeps the invariants. -/
theorem instructionsInContractComplete : Obligations.InstructionsInContractComplete := by
  intro i s h hi
  obtain ⟨t, ht⟩ := exec_completes h hi
  exact ⟨t, ht, exec_keeps_inv h ht⟩

/-- Settles O13. -/
theorem reservedTagIsRefused : Obligations.ReservedTagIsRefused := fun _ => rfl

end Sys2Proof.Machine
end

section
/-! SUPPORT. The step (20_memory.md R73, R80, R81; 30_encoding.md R120 to R123): the agents, what each performs, and
that no step from a state that meets the invariants faults or stops. -/

namespace Sys2Proof.Machine

theorem step_of_decode_ok {s : State} {i : Instr} (h : decode (fetch s).1 = .ok i) : step s = exec i (fetch s).2 := by
  rw [step, h]

theorem step_of_decode_error {s : State} {e : DecodeError} (h : decode (fetch s).1 = .error e) :
    step s = .refused (.undecodable e) := by
  rw [step, h]

theorem fetch_scripted {s : State} {w : StepWord} {rest : List StepWord} (h : s.feed = w :: rest) :
    fetch s = (w, { s with feed := rest }) := by
  rw [fetch, h]

theorem fetch_scheduled {s : State} (h : s.feed = []) :
    fetch s = (agentWord s (scheduledAgent s), { s with turn := s.turn + 1 }) := by
  rw [fetch, h]

/-- Settles O5. -/
theorem stepRunsTheScriptedInstruction : Obligations.StepRunsTheScriptedInstruction := by
  intro s w rest hfeed
  have hfetch := fetch_scripted hfeed
  refine ⟨fun i hi => ?_, fun e he => step_of_decode_error (by rw [hfetch]; exact he)⟩
  rw [step_of_decode_ok (i := i) (by rw [hfetch]; exact hi), hfetch]

/-! ### What an agent performs -/

/-- The operation of a node's list at a phase, on the draws of this turn (R121 to R123); beyond the list's end the
reserved tag (log 19). -/
def sequencerOp (s : State) : Role → Nat → Instr
  | .p1, 0 => .keyEdge .p1 (Config.keyIn s.turn)
  | .p1, 1 => .sample .p1 (drawnValue s .p1)
  | .p1, 2 => .gearStep
  | .p1, 3 => .txGear
  | .p1, 4 => .txSpeed
  | .p2, 0 => .keyEdge .p2 (Config.keyIn s.turn)
  | .p2, 1 => .sample .p2 (drawnValue s .p2)
  | .p2, 2 => .indStep
  | .p2, 3 => .txRpm
  | .p2, 4 => .txInd
  | .c, 0 => .canRx
  | .c, 1 => .dispatch
  | _, _ => .reserved

/-- The operation a node's sequencer performs at its phase. -/
def sequencerInstr (s : State) (n : Role) : Instr := sequencerOp s n (s.phase n).toNat

/-- The operation an agent performs (R81, R120). -/
def agentInstr (s : State) : Agent → Instr
  | .seq n => sequencerInstr s n
  | .bus src => .busDeliver src
  | .timer => .timerFire
  | .isr => .tickIsr
  | .env n => .reset n

/-- A sequencer's word is its operation's: each phase of each list is computed. -/
theorem decode_sequencerWord (s : State) (n : Role) : decode (agentWord s (.seq n)) = .ok (sequencerInstr s n) := by
  simp only [agentWord, sequencerTag, sequencerInstr]
  generalize s.phase n = p
  obtain ⟨⟨k, hk⟩⟩ := p
  cases n <;> interval_cases k <;> rfl

theorem decode_agentWord (s : State) (a : Agent) : decode (agentWord s a) = .ok (agentInstr s a) := by
  cases a with
  | seq n => exact decode_sequencerWord s n
  | bus src | timer | isr | env n => rfl

/-- The value drawn is within the node's contract (R40). -/
theorem drawnValue_le (s : State) (n : Producer) : (drawnValue s n.role).toNat ≤ valMax n := by
  have hmod : (Config.valIn s.turn).toNat % (valMax n + 1) < valMax n + 1 := Nat.mod_lt _ (Nat.succ_pos _)
  have hmax : valMax n ≤ 99999 := by cases n <;> decide
  have hdraw : drawnValue s n.role = BitVec.ofNat 17 ((Config.valIn s.turn).toNat % (valMax n + 1)) := by
    cases n <;> rfl
  rw [hdraw, BitVec.toNat_ofNat]
  omega

/-- An operation of a list acts on its own node, inside its contract; beyond the list's end there is the reserved
tag only (log 19). -/
theorem sequencerOp_cases (s : State) : ∀ (n : Role) (k : Nat),
    (sequencerOp s n k = .reserved ∧ cycleLen n ≤ k) ∨
      (instrNode (sequencerOp s n k) = some n ∧ ∀ t, InContract t (sequencerOp s n k))
  | .p1, 0 | .p1, 2 | .p1, 3 | .p1, 4 => .inr ⟨rfl, fun _ => trivial⟩
  | .p1, 1 => .inr ⟨rfl, fun _ => drawnValue_le s .p1⟩
  | .p1, k + 5 => .inl ⟨rfl, Nat.le_add_left 5 k⟩
  | .p2, 0 | .p2, 2 | .p2, 3 | .p2, 4 => .inr ⟨rfl, fun _ => trivial⟩
  | .p2, 1 => .inr ⟨rfl, fun _ => drawnValue_le s .p2⟩
  | .p2, k + 5 => .inl ⟨rfl, Nat.le_add_left 5 k⟩
  | .c, 0 | .c, 1 => .inr ⟨rfl, fun _ => trivial⟩
  | .c, k + 2 => .inl ⟨rfl, Nat.le_add_left 2 k⟩

/-- The operation beyond the end of a node's list (log 19). -/
theorem sequencerOp_beyond (s : State) {n : Role} {k : Nat} (h : cycleLen n ≤ k) : sequencerOp s n k = .reserved := by
  obtain ⟨j, rfl⟩ := Nat.exists_eq_add_of_le' h
  cases n <;> rfl

/-- A sequencer's operation is the one of its list at its phase. -/
theorem decode_sequencerWord_at {s : State} {n : Role} {k : Nat} (h : (s.phase n).toNat = k) :
    decode (agentWord s (.seq n)) = .ok (sequencerOp s n k) := by
  rw [decode_sequencerWord, sequencerInstr, h]

theorem decode_sequencerWord_beyond {s : State} {n : Role} (h : cycleLen n ≤ (s.phase n).toNat) :
    decode (agentWord s (.seq n)) = .ok .reserved := by
  rw [decode_sequencerWord_at rfl, sequencerOp_beyond s h]

/-- Settles O7: each phase's operation, and the reserved tag beyond. -/
theorem sequencersPerformTheirLists : Obligations.SequencersPerformTheirLists := by
  intro s
  have at_phase : ∀ {n : Role} {p : Phase}, s.phase n = p →
      decode (agentWord s (.seq n)) = .ok (sequencerOp s n p.toNat) := fun h => decode_sequencerWord_at (by rw [h])
  exact ⟨at_phase (n := .p1), fun h => ⟨_, drawnValue_le s .p1, at_phase (n := .p1) h⟩, at_phase (n := .p1),
    at_phase (n := .p1), at_phase (n := .p1), decode_sequencerWord_beyond (n := .p1),
    at_phase (n := .p2), fun h => ⟨_, drawnValue_le s .p2, at_phase (n := .p2) h⟩, at_phase (n := .p2),
    at_phase (n := .p2), at_phase (n := .p2), decode_sequencerWord_beyond (n := .p2),
    at_phase (n := .c), at_phase (n := .c), decode_sequencerWord_beyond (n := .c)⟩

/-! ### The schedule -/

theorem scheduledAgent_mem (s : State) : scheduledAgent s ∈ enabledAgents s := by
  have hpos : 0 < (enabledAgents s).length := by simp [enabledAgents]
  rw [scheduledAgent, List.getD_eq_getElem _ _ (Nat.mod_lt _ hpos)]
  exact List.getElem_mem _

theorem req_of_enabled {s : State} {src : Role} (h : .bus src ∈ enabledAgents s) : (s.tx src).req = true := by
  cases src <;> simpa [enabledAgents, State.tx] using h

theorem tickIf_of_enabled {s : State} (h : .isr ∈ enabledAgents s) : s.c.tickIf = true := by
  simpa [enabledAgents] using h

/-- An unscripted step is the scheduled agent's operation, and the turn advances. -/
theorem step_scheduled {s : State} (h : s.feed = []) :
    step s = exec (agentInstr s (scheduledAgent s)) { s with turn := s.turn + 1 } := by
  have hfetch := fetch_scheduled h
  rw [step_of_decode_ok (by rw [hfetch]; exact decode_agentWord s _), hfetch]

/-- Settles O6: the agent is enabled, and the step is its operation. -/
theorem scheduledStepIsOfAnEnabledAgent : Obligations.ScheduledStepIsOfAnEnabledAgent := by
  intro s hfeed
  have hmem := scheduledAgent_mem s
  have hstep := step_scheduled hfeed
  generalize scheduledAgent s = a at hmem hstep ⊢
  cases a with
  | bus src => exact ⟨req_of_enabled hmem, hstep⟩
  | isr => exact ⟨tickIf_of_enabled hmem, hstep⟩
  | timer | env n => exact hstep
  | seq n => exact ⟨_, decode_sequencerWord s n, (sequencerOp_cases s n _).imp_right And.left, hstep⟩

/-! ### Steps from states that meet the invariants -/

/-- Settles O8: no frame, no message, and every number 0. -/
theorem resetMeetsTheInvariants : Obligations.ResetMeetsTheInvariants where
  memWf := by decide
  gearRange := by decide
  tickRange := by decide
  phaseRange n := by cases n <;> decide
  valueRange n := by cases n <;> decide
  staged n hreq := by cases n <;> cases hreq
  received n hfull := by cases n <;> cases hfull
  message hlen := absurd rfl hlen

/-- The state a step starts from meets the invariants: only the script and the turn have moved. -/
theorem State.Inv.fetch {s : State} (h : s.Inv) : (fetch s).2.Inv := by
  unfold Machine.fetch
  cases hfeed : s.feed with
  | nil => exact h.setSchedule [] (s.turn + 1)
  | cons w rest => exact h.setSchedule rest s.turn

/-- Settles O9: a step that answers a next state is an instruction's. -/
theorem stepKeepsTheInvariants : Obligations.StepKeepsTheInvariants := by
  intro s t h ht
  cases hdecode : decode (fetch s).1 with
  | ok i => exact exec_keeps_inv h.fetch ((step_of_decode_ok hdecode).symm.trans ht)
  | error e => rw [step_of_decode_error hdecode] at ht; cases ht

/-- Settles O10: an instruction completes inside its contract and is refused outside it. -/
theorem invariantsRuleOutFaults : Obligations.InvariantsRuleOutFaults := by
  intro s h
  cases hdecode : decode (fetch s).1 with
  | ok i =>
    rw [step_of_decode_ok hdecode]
    by_cases hi : InContract (fetch s).2 i
    · obtain ⟨t, ht⟩ := exec_completes h.fetch hi
      rw [ht]
      trivial
    · obtain ⟨r, hr⟩ := exec_refused hi
      rw [hr]
      trivial
  | error e => rw [step_of_decode_error hdecode]; trivial

/-- An enabled agent's operation is inside its contract (R81). -/
theorem agentInstr_inContract {s : State} (h : s.Inv) {a : Agent} (ha : a ∈ enabledAgents s) :
    InContract { s with turn := s.turn + 1 } (agentInstr s a) := by
  cases a with
  | seq n =>
    rcases sequencerOp_cases s n (s.phase n).toNat with ⟨-, hbeyond⟩ | ⟨-, hcontract⟩
    · exact absurd (h.phaseRange n) (Nat.not_lt.2 hbeyond)
    · exact hcontract _
  | bus src => have hreq := req_of_enabled ha; cases src <;> exact hreq
  | isr => exact tickIf_of_enabled ha
  | timer | env n => trivial

/-- Settles O11: whatever enabled agent is picked, its operation completes, keeps the invariants and writes no
script. -/
theorem freeRunNeverStops : Obligations.FreeRunNeverStops := by
  intro s h hfeed
  have hturn : ({ s with turn := s.turn + 1 } : State).Inv := h.setSchedule s.feed (s.turn + 1)
  obtain ⟨t, ht⟩ := exec_completes hturn (agentInstr_inContract h (scheduledAgent_mem s))
  exact ⟨t, (step_scheduled hfeed).trans ht, exec_keeps_inv hturn ht, (exec_feed ht).trans hfeed⟩

end Sys2Proof.Machine
end

section
/-! SUPPORT. The blinker and the tick (45_blinker_tick.md R260 to R269), and the reset of a node
(70_reset_and_hazards.md R310 to R313). -/

namespace Sys2Proof.Machine

/-! ### The blinker -/

/-- The on phase ends with the threshold (R260). -/
theorem onPhase_iff (t : Tick) : onPhase t = true ↔ t.toNat ≤ 10000 := by
  rw [onPhase, decide_eq_true_iff, Config.halfPeriod_eq]

/-- The left lamp is on for LEFT and HAZARD, in the on phase (R260). -/
theorem blink_left_iff (i : Ind) (t : Tick) :
    (blink i t).1 = true ↔ (i = .left ∨ i = .hazard) ∧ t.toNat ≤ 10000 := by
  cases i <;> simp [blink, onPhase_iff]

/-- The right lamp is on for RIGHT and HAZARD, in the on phase (R260). -/
theorem blink_right_iff (i : Ind) (t : Tick) :
    (blink i t).2 = true ↔ (i = .right ∨ i = .hazard) ∧ t.toNat ≤ 10000 := by
  cases i <;> simp [blink, onPhase_iff]

/-- The lamps are two truth values, known from when each is on. -/
theorem blink_eq_iff {i : Ind} {t : Tick} {l r : Bool} :
    blink i t = (l, r) ↔ (l = true ↔ (i = .left ∨ i = .hazard) ∧ t.toNat ≤ 10000) ∧
      (r = true ↔ (i = .right ∨ i = .hazard) ∧ t.toNat ≤ 10000) := by
  rw [← blink_left_iff, ← blink_right_iff, Prod.ext_iff]
  exact and_congr (Bool.eq_iff_iff.trans Iff.comm) (Bool.eq_iff_iff.trans Iff.comm)

/-- Settles O53: each entry by when each lamp is on. -/
theorem blinkFollowsItsTable : Obligations.BlinkFollowsItsTable := by
  intro t
  refine ⟨fun hon => ⟨?_, ?_, ?_, ?_⟩, fun hoff i => ?_⟩
  · simp [blink_eq_iff]
  · simp [blink_eq_iff, hon]
  · simp [blink_eq_iff, hon]
  · simp [blink_eq_iff, hon]
  · simp [blink_eq_iff, Nat.not_le.2 hoff]

/-! ### The tick -/

/-- Settles O54: the wrap is at `TICK_MOD - 1`, by number. -/
theorem tickInterruptIsRaisedAndTaken : Obligations.TickInterruptIsRaisedAndTaken := by
  intro s
  refine ⟨rfl, fun hclear => ?_, fun hset => ?_⟩
  · rw [exec_tickIsr, hclear]; rfl
  · have hwrap : s.c.tick.toNat = Config.tickMod - 1 ↔ s.c.tick = 19999 := BitVec.toNat_inj (y := 19999)
    rw [exec_tickIsr, hset]
    simp only [takeTickInterrupt, hwrap]
    rfl

/-- One served fire: the tick is taken, whether or not one was pending (R269). -/
theorem ticks_succ (k : Nat) (s : State) : ticks (k + 1) s = ticks k (takeTickInterrupt (raiseTick s)) := rfl

/-- Settles O55, by induction on the fires: each advances the counter by one, modulo `TICK_MOD`. -/
theorem ticksCountModuloTickMod : Obligations.TicksCountModuloTickMod := by
  intro k
  induction k with
  | zero => exact fun s hs => ⟨s, rfl, (Nat.mod_eq_of_lt hs).symm⟩
  | succ k ih =>
    intro s hs
    have hone : (takeTickInterrupt (raiseTick s)).c.tick.toNat = (s.c.tick.toNat + 1) % 20000 :=
      takeTickInterrupt_tick (s := raiseTick s) hs
    obtain ⟨t, ht, htick⟩ := ih (takeTickInterrupt (raiseTick s)) (by rw [hone]; exact Nat.mod_lt _ (by decide))
    refine ⟨t, (ticks_succ k s).trans ht, ?_⟩
    rw [htick, hone, Nat.mod_add_mod, Nat.add_assoc, Nat.add_comm 1 k]

/-! ### Reset -/

/-- Settles O58: the registers are computed, the payload bytes are those of `readByte_resetNode`. -/
theorem resetOfANode : Obligations.ResetOfANode := by
  refine ⟨fun n s => ⟨resetNode n.role s, rfl, ?_⟩, fun s => ⟨resetNode .c s, rfl, rfl, rfl, rfl, rfl, rfl, rfl, rfl,
    rfl, rfl, rfl, rfl, rfl, rfl, rfl, readByte_resetNode .c s⟩⟩
  cases n with
  | p1 =>
    exact ⟨rfl, rfl, rfl, rfl, rfl, fun _ => ⟨rfl, rfl, rfl⟩, fun h => (by cases h), rfl, readByte_resetNode .p1 s⟩
  | p2 =>
    exact ⟨rfl, rfl, rfl, rfl, rfl, fun h => (by cases h), fun _ => ⟨rfl, rfl, rfl⟩, rfl, readByte_resetNode .p2 s⟩

/-- Settles O59. -/
theorem resetStateHoldsTheValuesOfR45 : Obligations.ResetStateHoldsTheValuesOfR45 := by
  refine ⟨fun n => ?_, fun n => ?_, rfl, rfl, rfl, rfl, rfl, rfl, rfl, rfl, rfl, fun _ => rfl⟩
  · cases n <;> exact ⟨rfl, rfl, rfl⟩
  · cases n <;> exact ⟨rfl, rfl⟩

end Sys2Proof.Machine
end

section
/-! SUPPORT. The dispatcher (44_dispatcher.md R221 to R236): what is routed where, each handler's next state, the rows
as arms. -/

namespace Sys2Proof.Machine

/-! ### Routing -/

theorem exec_dispatch (s : State) : exec .dispatch s = andThen (route s) fun t => t.setPhase .c 0 := rfl

theorem route_of_no_message {s : State} (hlen : s.c.msg.len = 0) : route s = .next s := if_pos hlen

/-- A GEAR message is handled in either mode, by its first byte (R221, R222, R223). -/
theorem route_gear {s : State} (hlen : s.c.msg.len ≠ 0) (hkind : s.c.msg.kind = .gear) :
    route s = withRead (messageByte s) fun v => gearHandler v s := by
  rw [route, if_neg hlen]
  cases hmode : s.c.mode <;> simp only [routeNormal, routeCollision, hkind, gearHandler, hmode]

/-- An INDICATOR message is handled in NORMAL, by its first byte (R222). -/
theorem route_indicator {s : State} (hmode : s.c.mode = .normal) (hlen : s.c.msg.len ≠ 0)
    (hkind : s.c.msg.kind = .indicator) : route s = withRead (messageByte s) fun v => indHandler v s := by
  simp only [route, if_neg hlen, hmode, routeNormal, hkind]

/-- A SPEED message is printed in NORMAL (R222, R226). -/
theorem route_speed {s : State} (hmode : s.c.mode = .normal) (hlen : s.c.msg.len ≠ 0)
    (hkind : s.c.msg.kind = .speed) : route s = printMessage Config.addrSpeed s := by
  simp only [route, if_neg hlen, hmode, routeNormal, hkind]

/-- An RPM message is printed in NORMAL (R222, R227). -/
theorem route_rpm {s : State} (hmode : s.c.mode = .normal) (hlen : s.c.msg.len ≠ 0)
    (hkind : s.c.msg.kind = .rpm) : route s = printMessage Config.addrRpm s := by
  simp only [route, if_neg hlen, hmode, routeNormal, hkind]

/-- A message of a foreign identifier is dropped, in either mode (R229). -/
theorem route_unknown {s : State} (hkind : s.c.msg.kind = .unknown) : route s = .next s := by
  unfold route
  cases s.c.mode <;> simp only [routeNormal, routeCollision, hkind, ite_self]

/-- In COLLISION a message that is not GEAR is dropped (R223). -/
theorem route_collision_not_gear {s : State} (hmode : s.c.mode = .collision) (hkind : s.c.msg.kind ≠ .gear) :
    route s = .next s := by
  simp only [route, hmode, routeCollision]
  cases hk : s.c.msg.kind with
  | gear => exact absurd hk hkind
  | speed | rpm | indicator | unknown => exact ite_self _

/-- What `DISPATCH` answers where routing answers a next state. -/
theorem exec_dispatch_of_route {s t : State} (h : route s = .next t) :
    exec .dispatch s = .next { t with c := { t.c with phase := 0 } } := by
  rw [exec_dispatch, h]; rfl

theorem exec_dispatch_gear {s : State} {v : Byte} (hlen : s.c.msg.len ≠ 0) (hkind : s.c.msg.kind = .gear)
    (hv : readByte s.mem (slotBase .cmsg) = some v) :
    exec .dispatch s = .next { gearHandler v s with c := { (gearHandler v s).c with phase := 0 } } :=
  exec_dispatch_of_route (by rw [route_gear hlen hkind, messageByte_eq_ok.2 hv, withRead_ok])

theorem exec_dispatch_indicator {s : State} {v : Byte} (hmode : s.c.mode = .normal) (hlen : s.c.msg.len ≠ 0)
    (hkind : s.c.msg.kind = .indicator) (hv : readByte s.mem (slotBase .cmsg) = some v) :
    exec .dispatch s = .next { indHandler v s with c := { (indHandler v s).c with phase := 0 } } :=
  exec_dispatch_of_route (by rw [route_indicator hmode hlen hkind, messageByte_eq_ok.2 hv, withRead_ok])

/-! ### The handlers -/

theorem gearHandler_of_normal {s : State} (hmode : s.c.mode = .normal) (v : Byte) :
    gearHandler v s = gearNormal v s := by rw [gearHandler, hmode]

theorem gearHandler_of_collision {s : State} (hmode : s.c.mode = .collision) (v : Byte) :
    gearHandler v s = gearCollision Config.alarmRerender v s := by rw [gearHandler, hmode]

/-- The GEAR handler in NORMAL, by the byte and not its class (R224). -/
theorem gearNormal_eq (v : Byte) (s : State) :
    gearNormal v s =
      if v = 8 then (setMode .collision s).emit alarmEvents
      else if v.toNat ≤ 7 then
        s.emit [.printAt Config.addrGear (Config.gearText (Fin.ofNat (Config.gearTop + 1) v.toNat))]
      else s := by
  rcases gearClass_cases v with ⟨hv, hclass⟩ | ⟨hv, hclass⟩ | ⟨hv, hclass⟩
  · rw [gearNormal, hclass, if_pos hv]
  · rw [gearNormal, hclass, if_neg (by rintro rfl; exact absurd hv (by decide)), if_pos hv]
  · rw [gearNormal, hclass, if_neg (by rintro rfl; exact absurd hv (by decide)), if_neg (by omega)]

/-- The GEAR handler in COLLISION, by the byte and not its class (R225). -/
theorem gearCollision_eq (r : AlarmRerender) (v : Byte) (s : State) :
    gearCollision r v s =
      if v = 8 then s.emit (repeatEvents r) else (setMode .normal s).emit (.clear :: drawLabels) := by
  rcases gearClass_cases v with ⟨hv, hclass⟩ | ⟨hv, hclass⟩ | ⟨hv, hclass⟩
  · rw [gearCollision, hclass, if_pos hv]
  · rw [gearCollision, hclass, if_neg (by rintro rfl; exact absurd hv (by decide))]
  · rw [gearCollision, hclass, if_neg (by rintro rfl; exact absurd hv (by decide))]

theorem emit_nil (s : State) : s.emit [] = s := by simp [State.emit, State.setC]

/-- After a GEAR handler the mode is COLLISION exactly for the sentinel (R233). -/
theorem gearHandler_mode (v : Byte) (s : State) : (gearHandler v s).c.mode = .collision ↔ v = 8 := by
  cases hmode : s.c.mode with
  | normal =>
    rw [gearHandler_of_normal hmode, gearNormal_eq]
    split_ifs with h8 h7
    · exact iff_of_true rfl h8
    · exact iff_of_false (by simp [State.emit, hmode]) h8
    · exact iff_of_false (by simp [hmode]) h8
  | collision =>
    rw [gearHandler_of_collision hmode, gearCollision_eq]
    split_ifs with h8
    · exact iff_of_true hmode h8
    · exact iff_of_false (by simp [State.emit, setMode]) h8

/-- Settles O40. -/
theorem dispatchGearInNormal : Obligations.DispatchGearInNormal := by
  intro s v hmode hlen hkind hv
  rw [exec_dispatch_gear hlen hkind hv, gearHandler_of_normal hmode, gearNormal_eq]
  split_ifs <;> rfl

/-- Settles O41: with `ENTRY_ONLY` a repeated sentinel draws nothing. -/
theorem dispatchGearInCollision : Obligations.DispatchGearInCollision := by
  intro s v hmode hlen hkind hv
  rw [exec_dispatch_gear hlen hkind hv, gearHandler_of_collision hmode, gearCollision_eq]
  split_ifs
  · rw [show repeatEvents Config.alarmRerender = [] from rfl, emit_nil]
  · rfl

/-- Settles O42. -/
theorem alarmRerenderDecidesOnlyTheRepeat : Obligations.AlarmRerenderDecidesOnlyTheRepeat := by
  intro s v
  rw [gearCollision_eq, gearCollision_eq]
  split_ifs <;> rfl

/-- Settles O43. -/
theorem dispatchPrintsSpeedAndRpmAsReceived : Obligations.DispatchPrintsSpeedAndRpmAsReceived := by
  intro s bytes hmode hlen hread
  have hprint : ∀ addr, printMessage addr s = .next (s.emit [.printAt addr bytes]) := fun addr => by
    rw [printMessage, messageBytes, hread, withRead_ok]
  exact ⟨fun hkind => exec_dispatch_of_route ((route_speed hmode hlen hkind).trans (hprint _)),
    fun hkind => exec_dispatch_of_route ((route_rpm hmode hlen hkind).trans (hprint _))⟩

/-- Settles O44: a byte in 0 to 3 is an indicator state's, whose lamps are `BLINK`'s. -/
theorem dispatchIndicatorDrivesBothLamps : Obligations.DispatchIndicatorDrivesBothLamps := by
  intro s v hmode hlen hkind hv
  rw [exec_dispatch_indicator hmode hlen hkind hv, indHandler]
  cases hind : indOf v with
  | none =>
    have hbyte : 4 ≤ v.toNat := (indOf_none_iff v).1 hind
    have hne : ∀ w : Byte, w.toNat ≤ 3 → v ≠ w := fun w hw h => by subst h; omega
    refine ⟨false, false, ?_, ?_, by rw [if_neg (by omega)]⟩
    · exact iff_of_false Bool.false_ne_true fun h => h.1.elim (hne 1 (by decide)) (hne 3 (by decide))
    · exact iff_of_false Bool.false_ne_true fun h => h.1.elim (hne 2 (by decide)) (hne 3 (by decide))
  | some i =>
    obtain rfl := indOf_eq_some_iff.1 hind
    have hleft : (indByte i = 1 ∨ indByte i = 3) ↔ (i = .left ∨ i = .hazard) := by cases i <;> decide
    have hright : (indByte i = 2 ∨ indByte i = 3) ↔ (i = .right ∨ i = .hazard) := by cases i <;> decide
    have hbyte : (indByte i).toNat ≤ 3 := by cases i <;> decide
    refine ⟨(blink i s.c.tick).1, (blink i s.c.tick).2, ?_, ?_, by rw [if_pos hbyte]; rfl⟩
    · rw [blink_left_iff, hleft]
    · rw [blink_right_iff, hright]

/-- Settles O45: each of the three is dropped by routing. -/
theorem dispatchDropsSilently : Obligations.DispatchDropsSilently := by
  rintro s (hlen | hkind | ⟨hmode, hkind⟩)
  · exact exec_dispatch_of_route (route_of_no_message hlen)
  · exact exec_dispatch_of_route (route_unknown hkind)
  · exact exec_dispatch_of_route (route_collision_not_gear hmode hkind)

/-- Settles O46: a GEAR message is routed to its handler, and nothing else moves the mode. -/
theorem modeFollowsTheLastGearMessage : Obligations.ModeFollowsTheLastGearMessage := by
  intro s t ht
  obtain ⟨u, hu, rfl⟩ := andThen_eq_next.1 ht
  refine ⟨fun hlen hkind => ?_, fun hother => ?_⟩
  · rw [route_gear hlen hkind] at hu
    obtain ⟨v, hv, rfl⟩ := withRead_eq_next.1 hu
    exact ⟨v, messageByte_eq_ok.1 hv, gearHandler_mode v s⟩
  · by_contra hmoved
    obtain ⟨hlen, hkind, -⟩ := (route_effect hu).mode_moved hmoved
    exact hother.elim hlen fun hne => hne hkind

/-! ### The rows as arms -/

/-- A handler of `C` leaves the phase (log 1). -/
theorem HandlerEffect.phase_kept {s t : State} (h : HandlerEffect s t) : t.c.phase = s.c.phase := by
  rw [h.frame]

/-- Settles O47. -/
theorem modeRowsAreTheArmsOfDispatch : Obligations.ModeRowsAreTheArmsOfDispatch := by
  intro s
  have hne : ∀ {m m' : Mode}, s.c.mode = m → m ≠ m' → s.c.mode ≠ m' := fun h hne h' => hne (h.symm.trans h')
  refine ⟨fun hmode => ⟨?_, if_neg (hne hmode (by decide))⟩, fun hmode => ⟨?_, if_neg (hne hmode (by decide))⟩,
    fun hlen => ⟨?_, ?_⟩, fun t ht => ?_⟩
  · rw [show exec .modeNormal s = route s from if_pos hmode]; rfl
  · rw [show exec .modeCollision s = route s from if_pos hmode]; rfl
  · show execModeNormal s = _
    rw [execModeNormal, route_of_no_message hlen, ite_self]
  · show execModeCollision s = _
    rw [execModeCollision, route_of_no_message hlen, ite_self]
  · rcases ht with ht | ht
    · exact (handler_rows_effect ht (by simp)).phase_kept
    · exact (handler_rows_effect ht (by simp)).phase_kept

theorem gearByteArm_of_no_message {s : State} (h : s.c.msg.len = 0 ∨ s.c.msg.kind ≠ .gear) (v : Byte) :
    gearByteArm v s = .next s :=
  if_neg fun hmsg => have ⟨hlen, hkind⟩ := (hasMessage_iff _ _).1 hmsg; h.elim hlen fun hne => hne hkind

theorem indByteArm_of_no_message {s : State}
    (h : s.c.mode = .collision ∨ s.c.msg.len = 0 ∨ s.c.msg.kind ≠ .indicator) (v : Byte) :
    indByteArm v s = .next s := by
  refine if_neg fun ⟨hmode, hmsg⟩ => ?_
  obtain ⟨hlen, hkind⟩ := (hasMessage_iff _ _).1 hmsg
  rcases h with h | h | h
  · rw [hmode] at h; cases h
  · exact hlen h
  · exact h hkind

/-- A GEAR byte row on its own byte is the GEAR handler (log 1). -/
theorem gearByteArm_own {s : State} {v : Byte} (hv : readByte s.mem (slotBase .cmsg) = some v)
    (hlen : s.c.msg.len ≠ 0) (hkind : s.c.msg.kind = .gear) : gearByteArm v s = .next (gearHandler v s) :=
  (gearByteArm_of_byte (messageByte_eq_ok.2 hv)).trans (if_pos ⟨⟨hlen, hkind⟩, rfl⟩)

/-- A GEAR byte row on another byte does nothing (log 1). -/
theorem gearByteArm_other {s : State} {v w : Byte} (hv : readByte s.mem (slotBase .cmsg) = some v) (h : v ≠ w) :
    gearByteArm w s = .next s :=
  (gearByteArm_of_byte (messageByte_eq_ok.2 hv)).trans (if_neg fun hall => h hall.2)

/-- An INDICATOR byte row on its own byte, in NORMAL, is `H.IND` (log 1). -/
theorem indByteArm_own {s : State} {v : Byte} (hv : readByte s.mem (slotBase .cmsg) = some v)
    (hmode : s.c.mode = .normal) (hlen : s.c.msg.len ≠ 0) (hkind : s.c.msg.kind = .indicator) :
    indByteArm v s = .next (indHandler v s) :=
  (indByteArm_of_byte (messageByte_eq_ok.2 hv)).trans (if_pos ⟨⟨hmode, hlen, hkind⟩, rfl⟩)

/-- An INDICATOR byte row on another byte does nothing (log 1). -/
theorem indByteArm_other {s : State} {v w : Byte} (hv : readByte s.mem (slotBase .cmsg) = some v) (h : v ≠ w) :
    indByteArm w s = .next s :=
  (indByteArm_of_byte (messageByte_eq_ok.2 hv)).trans (if_neg fun hall => h hall.2)

/-- A row for a class of GEAR bytes does nothing where its arm does nothing. -/
theorem gearbyte_rows_of_arm {s : State} {w : Byte} (h : gearByteArm w s = .next s) :
    exec (.gearbyteDisplay w) s = .next s ∧ exec (.gearbyteOutOfRange w) s = .next s :=
  ⟨show (if _ then gearByteArm w s else _) = _ by rw [h, ite_self],
   show (if _ then gearByteArm w s else _) = _ by rw [h, ite_self]⟩

theorem exec_indIgnored_of_arm {s : State} {w : Byte} (h : indByteArm w s = .next s) :
    exec (.indIgnored w) s = .next s :=
  show (if _ then indByteArm w s else _) = _ by rw [h, ite_self]

/-- Settles O48: the arm of the message's byte is the handler that `DISPATCH` runs. -/
theorem gearByteRowsAreTheArmsOfTheHandlers : Obligations.GearByteRowsAreTheArmsOfTheHandlers := by
  intro s
  refine ⟨fun v hv hlen hkind => ?own, fun v hv => ⟨fun w hw => ?other, fun h8 => ?otherSentinel⟩, fun h => ?none⟩
  case own =>
    have harm := gearByteArm_own hv hlen hkind
    exact ⟨gearHandler v s, (gearHandler_effect hlen hkind hv).phase_kept, exec_dispatch_gear hlen hkind hv,
      fun hclass => (if_pos ((gearClass_display_iff v).2 hclass)).trans harm, fun h8 => h8 ▸ harm,
      fun hclass => (if_pos ((gearClass_outOfRange_iff v).2 hclass)).trans harm⟩
  case other => exact gearbyte_rows_of_arm (gearByteArm_other hv hw.symm)
  case otherSentinel => exact gearByteArm_other hv h8
  case none =>
    exact ⟨gearByteArm_of_no_message h _, fun w => gearbyte_rows_of_arm (gearByteArm_of_no_message h w)⟩

/-- Settles O49: the arm of the message's byte is the handler that `DISPATCH` runs in NORMAL. -/
theorem indByteRowsAreTheArmsOfTheHandler : Obligations.IndByteRowsAreTheArmsOfTheHandler := by
  intro s
  refine ⟨fun v hv hmode hlen hkind => ?own, fun v hv => ⟨?_, ?_, ?_, ?_, fun w hw => ?_⟩, fun h => ?none⟩
  case own =>
    have harm := indByteArm_own hv hmode hlen hkind
    refine ⟨indHandler v s, (indHandler_effect hmode).phase_kept, exec_dispatch_indicator hmode hlen hkind hv,
      fun h => h ▸ harm, fun h => h ▸ harm, fun h => h ▸ harm, fun h => h ▸ harm, fun hignored => ?_⟩
    have hnone : indOf v = none := (indOf_none_iff v).2 hignored
    exact ⟨(if_pos hnone).trans harm, by rw [indHandler, hnone]⟩
  case none =>
    have harm := indByteArm_of_no_message h
    exact ⟨harm _, harm _, harm _, harm _, fun w => exec_indIgnored_of_arm (harm w)⟩
  · exact indByteArm_other hv
  · exact indByteArm_other hv
  · exact indByteArm_other hv
  · exact indByteArm_other hv
  · exact exec_indIgnored_of_arm (indByteArm_other hv hw.symm)

end Sys2Proof.Machine
end

section
/-! SUPPORT. The receive slots of the producers are never read (10_state.md R22, 40_transport.md R147): a state and the
same state with other registers and bytes there have outcomes that differ there only. The memories may be related in any
way that the memory's operations keep, so that one proof serves equal memories and memories that differ in the two
slots. -/

namespace Sys2Proof.Machine

/-- The state with other receive slots of the producers and another payload memory. -/
def State.withProducerRx (s : State) (r1 r2 : RxSlot) (m : Memory) : State :=
  { s with p1 := { s.p1 with rx := r1 }, p2 := { s.p2 with rx := r2 }, mem := m }

/-- A relation of memories that the writes keep and that gives the same bytes to every slot that is read. -/
structure MemRelation (M : Memory → Memory → Prop) : Prop where
  write : ∀ {m m'} sl bytes, M m m' → M (memWrite sl bytes m) (memWrite sl bytes m')
  clear : ∀ {m m'} sl, M m m' → M (clearSlot sl m) (clearSlot sl m')
  read : ∀ {m m' sl}, M m m' → sl ≠ .p1rx → sl ≠ .p2rx → ∀ j, j < 8 →
    readByte m' (slotBase sl + j) = readByte m (slotBase sl + j)

/-- Two states alike but for the producers' receive registers, with related memories. -/
def AlikeBut (M : Memory → Memory → Prop) (s t : State) : Prop :=
  ∃ r1 r2 m, t = s.withProducerRx r1 r2 m ∧ M s.mem m

/-! ### Outcomes of the same sort -/

theorem SameOutcome.andThen {R : State → State → Prop} {o o' : Result} {f : State → State} (h : SameOutcome R o o')
    (hf : ∀ {s t}, R s t → R (f s) (f t)) : SameOutcome R (andThen o f) (andThen o' f) := by
  cases o with
  | next s =>
    cases o' with
    | next t => exact hf h
    | fault | refused => exact h
  | fault | refused => cases o' <;> exact h

theorem SameOutcome.withRead {R : State → State → Prop} {α : Type} {x x' : Except Fault α} {f f' : α → State}
    (hx : x' = x) (hf : ∀ v, R (f v) (f' v)) : SameOutcome R (withRead x f) (withRead x' f') := by
  subst hx
  cases x' with
  | ok v => exact hf v
  | error e => exact rfl

theorem SameOutcome.ite {R : State → State → Prop} {c : Prop} [Decidable c] {o o' p p' : Result}
    (h : c → SameOutcome R o o') (h' : ¬c → SameOutcome R p p') :
    SameOutcome R (if c then o else p) (if c then o' else p') := by
  by_cases hc : c
  · rw [if_pos hc, if_pos hc]; exact h hc
  · rw [if_neg hc, if_neg hc]; exact h' hc

/-! ### The state's updates -/

section Alike

variable {M : Memory → Memory → Prop} {s t : State}

theorem withProducerRx_tx (s : State) (r1 r2 : RxSlot) (m : Memory) (n : Role) :
    (s.withProducerRx r1 r2 m).tx n = s.tx n := by cases n <;> rfl

theorem withProducerRx_armed (s : State) (r1 r2 : RxSlot) (m : Memory) (n : Producer) :
    ((s.withProducerRx r1 r2 m).prod n).armed = (s.prod n).armed := by cases n <;> rfl

theorem AlikeBut.setPhase (h : AlikeBut M s t) (n : Role) (p : Phase) :
    AlikeBut M (s.setPhase n p) (t.setPhase n p) := by
  obtain ⟨r1, r2, m, rfl, hm⟩ := h
  cases n <;> exact ⟨r1, r2, m, rfl, hm⟩

theorem AlikeBut.advance (h : AlikeBut M s t) (n : Role) : AlikeBut M (s.advance n) (t.advance n) := by
  obtain ⟨r1, r2, m, rfl, hm⟩ := h
  cases n <;> exact ⟨r1, r2, m, rfl, hm⟩

theorem AlikeBut.setTx (h : AlikeBut M s t) (n : Role) (x : TxSlot) : AlikeBut M (s.setTx n x) (t.setTx n x) := by
  obtain ⟨r1, r2, m, rfl, hm⟩ := h
  cases n <;> exact ⟨r1, r2, m, rfl, hm⟩

theorem AlikeBut.edgeRead (h : AlikeBut M s t) (n : Producer) (k : KeyMask) :
    AlikeBut M (edgeRead n k s) (edgeRead n k t) := by
  obtain ⟨r1, r2, m, rfl, hm⟩ := h
  unfold Machine.edgeRead
  rw [withProducerRx_armed]
  generalize edge (s.prod n).armed k = e
  obtain ⟨armed, event⟩ := e
  cases event <;> cases n <;> exact ⟨r1, r2, m, rfl, hm⟩

theorem AlikeBut.gearNormal (h : AlikeBut M s t) (v : Byte) : AlikeBut M (gearNormal v s) (gearNormal v t) := by
  obtain ⟨r1, r2, m, rfl, hm⟩ := h
  unfold Machine.gearNormal
  cases gearClass v <;> exact ⟨r1, r2, m, rfl, hm⟩

theorem AlikeBut.gearCollision (h : AlikeBut M s t) (r : AlarmRerender) (v : Byte) :
    AlikeBut M (gearCollision r v s) (gearCollision r v t) := by
  obtain ⟨r1, r2, m, rfl, hm⟩ := h
  unfold Machine.gearCollision
  cases gearClass v <;> exact ⟨r1, r2, m, rfl, hm⟩

theorem AlikeBut.mode_eq (h : AlikeBut M s t) : t.c.mode = s.c.mode := by
  obtain ⟨r1, r2, m, rfl, -⟩ := h
  rfl

theorem AlikeBut.msg_eq (h : AlikeBut M s t) : t.c.msg = s.c.msg := by
  obtain ⟨r1, r2, m, rfl, -⟩ := h
  rfl

theorem AlikeBut.crx_eq (h : AlikeBut M s t) : t.c.rx = s.c.rx := by
  obtain ⟨r1, r2, m, rfl, -⟩ := h
  rfl

theorem AlikeBut.ite_state {s' t' : State} {c : Prop} [Decidable c] (h : AlikeBut M s t) (h' : AlikeBut M s' t') :
    AlikeBut M (if c then s else s') (if c then t else t') := by
  split
  · exact h
  · exact h'

theorem AlikeBut.gearHandler (h : AlikeBut M s t) (v : Byte) : AlikeBut M (gearHandler v s) (gearHandler v t) := by
  cases hmode : s.c.mode with
  | normal =>
    rw [gearHandler_of_normal hmode, gearHandler_of_normal (h.mode_eq.trans hmode)]
    exact h.gearNormal v
  | collision =>
    rw [gearHandler_of_collision hmode, gearHandler_of_collision (h.mode_eq.trans hmode)]
    exact h.gearCollision _ v

theorem AlikeBut.indHandler (h : AlikeBut M s t) (v : Byte) : AlikeBut M (indHandler v s) (indHandler v t) := by
  obtain ⟨r1, r2, m, rfl, hm⟩ := h
  unfold Machine.indHandler
  cases indOf v <;> exact ⟨r1, r2, m, rfl, hm⟩

theorem AlikeBut.gearKeyArm (h : AlikeBut M s t) (k : GearKey) : AlikeBut M (gearKeyArm k s) (gearKeyArm k t) := by
  obtain ⟨r1, r2, m, rfl, hm⟩ := h
  rw [gearKeyArm_eq, gearKeyArm_eq]
  exact ⟨r1, r2, m, rfl, hm⟩

theorem AlikeBut.indKeyArm (h : AlikeBut M s t) (x : Ind) : AlikeBut M (indKeyArm x s) (indKeyArm x t) := by
  obtain ⟨r1, r2, m, rfl, hm⟩ := h
  rw [indKeyArm_eq, indKeyArm_eq]
  exact ⟨r1, r2, m, rfl, hm⟩

/-! ### The reads and writes of the memory -/

variable (hM : MemRelation M)
include hM

theorem AlikeBut.memRead_eq (h : AlikeBut M s t) {sl : Slot} (h1 : sl ≠ .p1rx) (h2 : sl ≠ .p2rx) (n : Nat) :
    memRead sl n t.mem = memRead sl n s.mem := by
  obtain ⟨r1, r2, m, rfl, hm⟩ := h
  exact memRead_congr (hM.read hm h1 h2)

theorem AlikeBut.messageByte_eq (h : AlikeBut M s t) : messageByte t = messageByte s := by
  obtain ⟨r1, r2, m, rfl, hm⟩ := h
  have hbyte : readByte m (slotBase .cmsg) = readByte s.mem (slotBase .cmsg) :=
    hM.read (sl := .cmsg) hm (by decide) (by decide) 0 (by decide)
  simp only [messageByte, State.withProducerRx, hbyte]

theorem AlikeBut.transmit (h : AlikeBut M s t) (n : Role) (x : Transmission) :
    SameOutcome (AlikeBut M) (transmit n x s) (transmit n x t) := by
  obtain ⟨r1, r2, m, rfl, hm⟩ := h
  unfold Machine.transmit
  cases idOf x.1 with
  | none => exact rfl
  | some id =>
    refine .ite (fun _ => rfl) fun _ => ?_
    cases n <;> exact ⟨r1, r2, _, rfl, hM.write _ _ hm⟩

theorem AlikeBut.putFrame (h : AlikeBut M s t) (id : Ident) (len : Len) (bytes : List Byte) (r : Role) :
    AlikeBut M (putFrame id len bytes s r) (putFrame id len bytes t r) := by
  obtain ⟨r1, r2, m, rfl, hm⟩ := h
  cases r <;> exact ⟨_, _, _, rfl, hM.write _ _ hm⟩

theorem AlikeBut.foldl_putFrame (h : AlikeBut M s t) (id : Ident) (len : Len) (bytes : List Byte) (rs : List Role) :
    AlikeBut M (rs.foldl (Machine.putFrame id len bytes) s) (rs.foldl (Machine.putFrame id len bytes) t) := by
  induction rs generalizing s t with
  | nil => exact h
  | cons r rs ih => exact ih (h.putFrame hM id len bytes r)

/-- A delivery reads a transmit slot and overwrites the receive slots (R143). -/
theorem AlikeBut.deliver (h : AlikeBut M s t) (src : Role) :
    SameOutcome (AlikeBut M) (deliver src s) (deliver src t) := by
  have htx : t.tx src = s.tx src := by
    obtain ⟨r1, r2, m, rfl, -⟩ := h
    exact withProducerRx_tx s r1 r2 m src
  have hread := h.memRead_eq hM (sl := txSlot src) (by cases src <;> decide) (by cases src <;> decide)
    (s.tx src).len.toNat
  unfold Machine.deliver
  rw [htx]
  exact .ite (fun _ => .withRead hread fun bytes => (h.foldl_putFrame hM _ _ bytes _).setTx src _) fun _ => rfl

theorem AlikeBut.takeFrame (h : AlikeBut M s t) : SameOutcome (AlikeBut M) (takeFrame s) (takeFrame t) := by
  have hread := h.memRead_eq hM (sl := .crx) (by decide) (by decide) s.c.rx.len.toNat
  obtain ⟨r1, r2, m, rfl, hm⟩ := h
  exact .withRead hread fun bytes => ⟨r1, r2, _, rfl, hM.write _ _ hm⟩

theorem AlikeBut.noMessage (h : AlikeBut M s t) : AlikeBut M (noMessage s) (noMessage t) := by
  obtain ⟨r1, r2, m, rfl, hm⟩ := h
  exact ⟨r1, r2, _, rfl, hM.clear _ hm⟩

theorem AlikeBut.resetNode (h : AlikeBut M s t) (n : Role) : AlikeBut M (resetNode n s) (resetNode n t) := by
  obtain ⟨r1, r2, m, rfl, hm⟩ := h
  cases n with
  | p1 | p2 => exact ⟨_, _, _, rfl, hM.clear _ (hM.clear _ hm)⟩
  | c => exact ⟨_, _, _, rfl, hM.clear _ (hM.clear _ (hM.clear _ hm))⟩

theorem AlikeBut.frameArm (h : AlikeBut M s t) (k : Kind) :
    SameOutcome (AlikeBut M) (frameArm k s) (frameArm k t) := by
  have htake := h.takeFrame hM
  obtain ⟨r1, r2, m, rfl, hm⟩ := h
  exact .ite (fun _ => htake) fun _ => ⟨r1, r2, m, rfl, hm⟩

theorem AlikeBut.printMessage (h : AlikeBut M s t) (addr : DispAddr) :
    SameOutcome (AlikeBut M) (printMessage addr s) (printMessage addr t) := by
  have hread := h.memRead_eq hM (sl := .cmsg) (by decide) (by decide) s.c.msg.len.toNat
  obtain ⟨r1, r2, m, rfl, hm⟩ := h
  exact .withRead hread fun bytes => ⟨r1, r2, m, rfl, hm⟩

/-- Routing reads the mode and the message only (R221). -/
theorem AlikeBut.route (h : AlikeBut M s t) : SameOutcome (AlikeBut M) (route s) (route t) := by
  have hbyte := h.messageByte_eq hM
  unfold Machine.route routeNormal routeCollision
  rw [h.msg_eq, h.mode_eq]
  refine .ite (fun _ => h) fun _ => ?_
  cases s.c.mode with
  | normal =>
    cases s.c.msg.kind with
    | gear => exact .withRead hbyte h.gearNormal
    | speed => exact h.printMessage hM Config.addrSpeed
    | rpm => exact h.printMessage hM Config.addrRpm
    | indicator => exact .withRead hbyte h.indHandler
    | unknown => exact h
  | collision =>
    cases s.c.msg.kind with
    | gear => exact .withRead hbyte (h.gearCollision _)
    | speed | rpm | indicator | unknown => exact h

theorem AlikeBut.gearByteArm (h : AlikeBut M s t) (v : Byte) :
    SameOutcome (AlikeBut M) (gearByteArm v s) (gearByteArm v t) := by
  unfold Machine.gearByteArm hasMessage
  rw [h.msg_eq]
  exact .ite (fun _ => .withRead (h.messageByte_eq hM) fun b => .ite_state (h.gearHandler v) h) fun _ => h

theorem AlikeBut.indByteArm (h : AlikeBut M s t) (v : Byte) :
    SameOutcome (AlikeBut M) (indByteArm v s) (indByteArm v t) := by
  unfold Machine.indByteArm hasMessage
  rw [h.msg_eq, h.mode_eq]
  exact .ite (fun _ => .withRead (h.messageByte_eq hM) fun b => .ite_state (h.indHandler v) h) fun _ => h

/-- No instruction reads the producers' receive slots: from alike states the outcomes are alike (R22, R147). -/
theorem AlikeBut.exec (h : AlikeBut M s t) (i : Instr) : SameOutcome (AlikeBut M) (exec i s) (exec i t) := by
  cases i with
  | reserved => exact rfl
  | keyLevel n k =>
    obtain ⟨r1, r2, m, rfl, hm⟩ := h
    cases n <;> exact ⟨r1, r2, m, rfl, hm⟩
  | keyEdge n k => exact (h.edgeRead n k).advance n.role
  | sample n v =>
    obtain ⟨r1, r2, m, rfl, hm⟩ := h
    rw [exec_sample, exec_sample]
    refine .ite (fun _ => ?_) fun _ => rfl
    cases n <;> exact ⟨r1, r2, m, rfl, hm⟩
  | gearStep =>
    obtain ⟨r1, r2, m, rfl, hm⟩ := h
    rw [exec_gearStep, exec_gearStep]
    exact ⟨r1, r2, m, rfl, hm⟩
  | indStep =>
    obtain ⟨r1, r2, m, rfl, hm⟩ := h
    rw [exec_indStep, exec_indStep]
    exact ⟨r1, r2, m, rfl, hm⟩
  | txGear =>
    have hgear : t.gear = s.gear := by obtain ⟨r1, r2, m, rfl, -⟩ := h; rfl
    show SameOutcome _ (execTxGear s) (execTxGear t)
    rw [execTxGear, execTxGear, hgear]
    exact (h.transmit hM .p1 _).andThen fun h => h.advance .p1
  | txSpeed =>
    have hnum : t.p1.num = s.p1.num := by obtain ⟨r1, r2, m, rfl, -⟩ := h; rfl
    show SameOutcome _ (execTxSpeed s) (execTxSpeed t)
    rw [execTxSpeed, execTxSpeed, hnum]
    exact (h.transmit hM .p1 _).andThen fun h => h.advance .p1
  | txRpm =>
    have hnum : t.p2.num = s.p2.num := by obtain ⟨r1, r2, m, rfl, -⟩ := h; rfl
    show SameOutcome _ (execTxRpm s) (execTxRpm t)
    rw [execTxRpm, execTxRpm, hnum]
    exact (h.transmit hM .p2 _).andThen fun h => h.advance .p2
  | txInd =>
    have hind : t.ind = s.ind := by obtain ⟨r1, r2, m, rfl, -⟩ := h; rfl
    show SameOutcome _ (execTxInd s) (execTxInd t)
    rw [execTxInd, execTxInd, hind]
    exact (h.transmit hM .p2 _).andThen fun h => h.advance .p2
  | canRx =>
    show SameOutcome _ (execCanRx s) (execCanRx t)
    rw [execCanRx, execCanRx, h.crx_eq]
    exact .ite (fun _ => (h.takeFrame hM).andThen fun h => h.advance .c) fun _ => (h.noMessage hM).advance .c
  | dispatch => exact (h.route hM).andThen fun h => h.setPhase .c 0
  | busDeliver src => exact h.deliver hM src
  | timerFire =>
    obtain ⟨r1, r2, m, rfl, hm⟩ := h
    exact ⟨r1, r2, m, rfl, hm⟩
  | tickIsr =>
    obtain ⟨r1, r2, m, rfl, hm⟩ := h
    rw [exec_tickIsr, exec_tickIsr]
    exact .ite (fun _ => ⟨r1, r2, m, rfl, hm⟩) fun _ => rfl
  | reset n => exact h.resetNode hM n
  | canTx n k len payload => exact h.transmit hM n _
  | frameGear | frameSpeed | frameRpm | frameIndicator => exact h.frameArm hM _
  | frameUnknown id =>
    show SameOutcome _ (execFrameUnknown id s) (execFrameUnknown id t)
    rw [execFrameUnknown, execFrameUnknown, h.crx_eq]
    exact .ite (fun _ => h.frameArm hM _) fun _ => h
  | frameNone =>
    show SameOutcome _ (execFrameNone s) (execFrameNone t)
    rw [execFrameNone, execFrameNone, h.crx_eq]
    exact .ite (fun _ => .ite (fun _ => h.takeFrame hM) fun _ => h) fun _ => h.noMessage hM
  | gearbyteSentinel => exact h.gearByteArm hM _
  | gearbyteDisplay v | gearbyteOutOfRange v => exact .ite (fun _ => h.gearByteArm hM v) fun _ => h
  | indOff | indLeft | indRight | indHazard => exact h.indByteArm hM _
  | indIgnored v => exact .ite (fun _ => h.indByteArm hM v) fun _ => h
  | modeNormal =>
    show SameOutcome _ (execModeNormal s) (execModeNormal t)
    rw [execModeNormal, execModeNormal, h.mode_eq]
    exact .ite (fun _ => h.route hM) fun _ => h
  | modeCollision =>
    show SameOutcome _ (execModeCollision s) (execModeCollision t)
    rw [execModeCollision, execModeCollision, h.mode_eq]
    exact .ite (fun _ => h.route hM) fun _ => h
  | keyP1Increment | keyP1Decrement | keyP1Collision => exact h.gearKeyArm _
  | keyP2Left | keyP2Right | keyP2Hazard | keyP2Off => exact h.indKeyArm _
  | keyAllReleased n => exact h.edgeRead n _

end Alike

/-! ### The two readings of R147 -/

theorem memRelation_eq : MemRelation Eq :=
  ⟨fun _ _ h => h ▸ rfl, fun _ h => h ▸ rfl, fun h _ _ _ _ => h ▸ rfl⟩

/-- Memories that hold the same bytes outside the producers' receive slots. -/
def SameOutsideProducerRx (m m' : Memory) : Prop :=
  ∀ a, inSlot .p1rx a = false → inSlot .p2rx a = false → readByte m a = readByte m' a

/-- What a write leaves at an address depends on what stood at that address only. -/
theorem readByte_memWrite_congr {m m' : Memory} {a : Nat} (h : readByte m a = readByte m' a) (sl : Slot)
    (bytes : List Byte) : readByte (memWrite sl bytes m) a = readByte (memWrite sl bytes m') a := by
  simp only [memWrite, readByte_writeFrom, readByte_clearSlot, h]

theorem memRelation_sameOutsideProducerRx : MemRelation SameOutsideProducerRx where
  write sl bytes h a h1 h2 := readByte_memWrite_congr (h a h1 h2) sl bytes
  clear sl h a h1 h2 := by rw [readByte_clearSlot, readByte_clearSlot, h a h1 h2]
  read h h1 h2 j hj := (h _ (eq_false_of_ne_true fun hin => h1 ((inSlot_add _ _ hj).1 hin))
    (eq_false_of_ne_true fun hin => h2 ((inSlot_add _ _ hj).1 hin))).symm

/-- The statement's relation is this one: the registers alike, the memories alike outside the two slots. -/
theorem sameButProducerRx_iff {s t : State} : SameButProducerRx s t ↔ AlikeBut SameOutsideProducerRx s t := by
  refine ⟨fun h => ⟨t.p1.rx, t.p2.rx, t.mem, ?_, h.bytes⟩, fun ⟨r1, r2, m, ht, hm⟩ => ?_⟩
  · calc t = t.withoutProducerRx.withProducerRx t.p1.rx t.p2.rx t.mem := rfl
      _ = s.withoutProducerRx.withProducerRx t.p1.rx t.p2.rx t.mem := by rw [h.registers]
      _ = s.withProducerRx t.p1.rx t.p2.rx t.mem := rfl
  · subst ht
    exact ⟨rfl, hm⟩

theorem SameOutcome.mono {R R' : State → State → Prop} {o o' : Result} (h : SameOutcome R o o')
    (hR : ∀ {s t}, R s t → R' s t) : SameOutcome R' o o' := by
  cases o with
  | next s =>
    cases o' with
    | next t => exact hR h
    | fault | refused => exact h
  | fault | refused => cases o' <;> exact h

/-- Outcomes of the same sort are equal once what may differ is put to one value. -/
theorem SameOutcome.andThen_eq {R : State → State → Prop} {o o' : Result} {f : State → State} (h : SameOutcome R o o')
    (hf : ∀ {s t}, R s t → f t = f s) : Machine.andThen o' f = Machine.andThen o f := by
  cases o with
  | next s =>
    cases o' with
    | next t => exact congrArg _ (hf h)
    | fault | refused => exact h.elim
  | fault r =>
    cases o' with
    | fault q => exact congrArg _ (Eq.symm h)
    | next | refused => exact h.elim
  | refused r =>
    cases o' with
    | refused q => exact congrArg _ (Eq.symm h)
    | next | fault => exact h.elim

/-- Settles O39: equal memories for the first reading, memories alike outside the two slots for the second. -/
theorem producersNeverReadTheirReceiveSlot : Obligations.ProducersNeverReadTheirReceiveSlot := by
  refine ⟨fun i s r1 r2 => ?_, fun i s t h => ?_⟩
  · have halike : AlikeBut Eq s { s with p1 := { s.p1 with rx := r1 }, p2 := { s.p2 with rx := r2 } } :=
      ⟨r1, r2, s.mem, rfl, rfl⟩
    refine (halike.exec memRelation_eq i).andThen_eq ?_
    rintro u _ ⟨q1, q2, m, rfl, rfl⟩
    rfl
  · exact ((sameButProducerRx_iff.1 h).exec memRelation_sameOutsideProducerRx i).mono sameButProducerRx_iff.2

end Sys2Proof.Machine
end
